-- ==== Sys2Proof/Word.lean ====
section
/-! DEFINITION. The word types of the synthesis core: bytes of the command and value streams, 16-bit
table entries and addresses, 32-bit counters, and binary32 signal values (00_scope.md R9).
-/
namespace Sys2Proof

/-- A command or value byte, or a voice's note (R9: 8-bit unsigned). -/
abbrev Byte := BitVec 8

/-- A DelayTimes entry, a send address or an oscillator gate mask (R9, R206: 16-bit unsigned). -/
abbrev Half := BitVec 16

/-- `randSeed`, `globalTime` and the polyphony bitmask (R9, R105: 32-bit unsigned). -/
abbrev Word := BitVec 32

/-- An IEEE 754 binary32 value as its bit pattern: sign in bit 31, biased exponent in bits 30:23,
fraction in bits 22:0 (R9, R15). Signals move bit for bit (R424), so a signal is its pattern. -/
abbrev F32 := BitVec 32

end Sys2Proof
end

