-- ==== Sys2Proof/Syntax.lean ====
section
/-! DEFINITION. The instructions of the core: one constructor per row of spec/opcode_table.json
(30_encoding.md R302).
-/
namespace Sys2Proof

/-- An instruction is a command byte (opcode and stereo bit, R300) together with its operand group
(R301): the transformable bytes in the order of R302, then the extra bytes. The first argument of
every constructor is the stereo bit; `advance`, `speed` and `sync` carry theirs although it has no
effect (R310, R312). The two 16-bit operands, the `send` address and the gate mask, are held
assembled, first byte low (R206). -/
inductive Instr where
  | advance (stereo : Bool)
  | add (stereo : Bool)
  | addp (stereo : Bool)
  | pop (stereo : Bool)
  | loadnote (stereo : Bool)
  | mul (stereo : Bool)
  | mulp (stereo : Bool)
  | push (stereo : Bool)
  | xch (stereo : Bool)
  | distort (stereo : Bool) (drive : Byte)
  | hold (stereo : Bool) (holdfreq : Byte)
  | crush (stereo : Bool) (resolution : Byte)
  | gain (stereo : Bool) (gain : Byte)
  | invgain (stereo : Bool) (invgain : Byte)
  | filter (stereo : Bool) (frequency resonance flags : Byte)
  | clip (stereo : Bool)
  | pan (stereo : Bool) (panning : Byte)
  | delay (stereo : Bool) (pregain dry feedback depth damp index count : Byte)
  | compressor (stereo : Bool) (attack release invgain threshold ratio : Byte)
  | speed (stereo : Bool)
  | out (stereo : Bool) (gain : Byte)
  | outaux (stereo : Bool) (outgain auxgain : Byte)
  | aux (stereo : Bool) (gain channel : Byte)
  | send (stereo : Bool) (amount : Byte) (address : Half)
  | envelope (stereo : Bool) (attack decay sustain release gain : Byte)
  | noise (stereo : Bool) (shape gain : Byte)
  | oscillator (stereo : Bool) (transpose detune phase color shape gain flags : Byte)
      (gate : Option Half)
  | loadval (stereo : Bool) (value : Byte)
  | receive (stereo : Bool)
  | input (stereo : Bool) (channel : Byte)
  | sync (stereo : Bool)
deriving DecidableEq, Repr

end Sys2Proof
end

