-- ==== Sys2Proof/WellFormed.lean ====
section
/-! DEFINITION. Which instruction terms stand for an encodable instruction. Every operand field has
exactly the width its encoding gives it, so one check remains: the oscillator's two gate-mask bytes
are part of its operand group exactly when flag bit 2 is set (30_encoding.md R306, R313).
-/
namespace Sys2Proof

/-- The Gate bit of an oscillator flags byte, mask 0x04 (R306): it also says whether the operand
group carries two gate-mask bytes. -/
def gateFlag (flags : Byte) : Bool := flags.getLsbD 2

/-- The instruction can be written in the two streams. -/
def Instr.wellFormed : Instr → Bool
  | .oscillator _ _ _ _ _ _ _ flags gate => gate.isSome == gateFlag flags
  | _ => true

end Sys2Proof
end

