-- ==== Sys2Proof/Decode.lean ====
section
/-! DEFINITION. Decoding a command byte and the value bytes that follow the value cursor, and the
encoder back to the two streams (30_encoding.md R300 to R313).
-/
namespace Sys2Proof

/-- What the decoder reads. `illegal` is a command byte whose opcode is 31..127 (R311). `ended` is a
legal opcode whose operand group the value stream does not hold completely (R405, R303). -/
inductive Decoded where
  | instr (i : Instr)
  | illegal (command : Byte)
  | ended (opcode : Nat)
deriving DecidableEq, Repr

/-- The opcode number, bits 7:1 of the command byte (R300). -/
def opcodeOf (c : Byte) : Nat := c.toNat / 2

/-- The stereo bit, bit 0 of the command byte (R300). -/
def stereoOf (c : Byte) : Bool := c.getLsbD 0

/-- `X1:X0`, two value bytes with the first one low (R206). -/
def halfOf (lo hi : Byte) : Half := hi ++ lo

/-- The first value byte of a 16-bit operand (R206). -/
def lowByte (h : Half) : Byte := h.extractLsb' 0 8

/-- The second value byte of a 16-bit operand (R206). -/
def highByte (h : Half) : Byte := h.extractLsb' 8 8

/-- `transformCount[op-1]` of R302, by opcode number; 0 for `advance` and for illegal opcodes. -/
def transformCount : Nat → Nat
  | 9 | 10 | 11 | 12 | 13 | 16 | 20 | 22 | 23 | 27 => 1
  | 14 | 21 | 25 => 2
  | 17 | 18 | 24 => 5
  | 26 => 6
  | _ => 0

/-- Extra value bytes of R302, by opcode number, the oscillator's gate bytes left out. -/
def extraCount : Nat → Nat
  | 14 | 22 | 26 | 29 => 1
  | 17 | 23 => 2
  | _ => 0

/-- Decodes the command byte `c` with `vs` the value bytes from the value cursor on. The opcode is
chosen by the command byte alone (R403); the operand group is the leading bytes of `vs` (R301). -/
def decode (c : Byte) (vs : List Byte) : Decoded :=
  let s := stereoOf c
  match opcodeOf c with
  | 0 => .instr (.advance s)
  | 1 => .instr (.add s)
  | 2 => .instr (.addp s)
  | 3 => .instr (.pop s)
  | 4 => .instr (.loadnote s)
  | 5 => .instr (.mul s)
  | 6 => .instr (.mulp s)
  | 7 => .instr (.push s)
  | 8 => .instr (.xch s)
  | 9 => match vs with
    | t0 :: _ => .instr (.distort s t0)
    | _ => .ended 9
  | 10 => match vs with
    | t0 :: _ => .instr (.hold s t0)
    | _ => .ended 10
  | 11 => match vs with
    | t0 :: _ => .instr (.crush s t0)
    | _ => .ended 11
  | 12 => match vs with
    | t0 :: _ => .instr (.gain s t0)
    | _ => .ended 12
  | 13 => match vs with
    | t0 :: _ => .instr (.invgain s t0)
    | _ => .ended 13
  | 14 => match vs with
    | t0 :: t1 :: x0 :: _ => .instr (.filter s t0 t1 x0)
    | _ => .ended 14
  | 15 => .instr (.clip s)
  | 16 => match vs with
    | t0 :: _ => .instr (.pan s t0)
    | _ => .ended 16
  | 17 => match vs with
    | t0 :: t1 :: t2 :: t3 :: t4 :: x0 :: x1 :: _ => .instr (.delay s t0 t1 t2 t3 t4 x0 x1)
    | _ => .ended 17
  | 18 => match vs with
    | t0 :: t1 :: t2 :: t3 :: t4 :: _ => .instr (.compressor s t0 t1 t2 t3 t4)
    | _ => .ended 18
  | 19 => .instr (.speed s)
  | 20 => match vs with
    | t0 :: _ => .instr (.out s t0)
    | _ => .ended 20
  | 21 => match vs with
    | t0 :: t1 :: _ => .instr (.outaux s t0 t1)
    | _ => .ended 21
  | 22 => match vs with
    | t0 :: x0 :: _ => .instr (.aux s t0 x0)
    | _ => .ended 22
  | 23 => match vs with
    | t0 :: x0 :: x1 :: _ => .instr (.send s t0 (halfOf x0 x1))
    | _ => .ended 23
  | 24 => match vs with
    | t0 :: t1 :: t2 :: t3 :: t4 :: _ => .instr (.envelope s t0 t1 t2 t3 t4)
    | _ => .ended 24
  | 25 => match vs with
    | t0 :: t1 :: _ => .instr (.noise s t0 t1)
    | _ => .ended 25
  | 26 => match vs with
    | t0 :: t1 :: t2 :: t3 :: t4 :: t5 :: x0 :: rest =>
      match gateFlag x0, rest with
      | false, _ => .instr (.oscillator s t0 t1 t2 t3 t4 t5 x0 none)
      | true, x1 :: x2 :: _ => .instr (.oscillator s t0 t1 t2 t3 t4 t5 x0 (some (halfOf x1 x2)))
      | true, _ => .ended 26
    | _ => .ended 26
  | 27 => match vs with
    | t0 :: _ => .instr (.loadval s t0)
    | _ => .ended 27
  | 28 => .instr (.receive s)
  | 29 => match vs with
    | x0 :: _ => .instr (.input s x0)
    | _ => .ended 29
  | 30 => .instr (.sync s)
  | _ => .illegal c

/-- `opcode << 1 | stereoBit` (R300). -/
def commandByte (op : Nat) (s : Bool) : Byte := BitVec.ofNat 8 (2 * op + s.toNat)

/-- The command byte of an instruction (R302). -/
def Instr.command : Instr → Byte
  | .advance s => commandByte 0 s
  | .add s => commandByte 1 s
  | .addp s => commandByte 2 s
  | .pop s => commandByte 3 s
  | .loadnote s => commandByte 4 s
  | .mul s => commandByte 5 s
  | .mulp s => commandByte 6 s
  | .push s => commandByte 7 s
  | .xch s => commandByte 8 s
  | .distort s _ => commandByte 9 s
  | .hold s _ => commandByte 10 s
  | .crush s _ => commandByte 11 s
  | .gain s _ => commandByte 12 s
  | .invgain s _ => commandByte 13 s
  | .filter s _ _ _ => commandByte 14 s
  | .clip s => commandByte 15 s
  | .pan s _ => commandByte 16 s
  | .delay s _ _ _ _ _ _ _ => commandByte 17 s
  | .compressor s _ _ _ _ _ => commandByte 18 s
  | .speed s => commandByte 19 s
  | .out s _ => commandByte 20 s
  | .outaux s _ _ => commandByte 21 s
  | .aux s _ _ => commandByte 22 s
  | .send s _ _ => commandByte 23 s
  | .envelope s _ _ _ _ _ => commandByte 24 s
  | .noise s _ _ => commandByte 25 s
  | .oscillator s _ _ _ _ _ _ _ _ => commandByte 26 s
  | .loadval s _ => commandByte 27 s
  | .receive s => commandByte 28 s
  | .input s _ => commandByte 29 s
  | .sync s => commandByte 30 s

/-- The operand group of an instruction in the value stream (R301, R302). -/
def Instr.operands : Instr → List Byte
  | .advance _ | .add _ | .addp _ | .pop _ | .loadnote _ | .mul _ | .mulp _ | .push _ | .xch _
  | .clip _ | .speed _ | .receive _ | .sync _ => []
  | .distort _ t0 | .hold _ t0 | .crush _ t0 | .gain _ t0 | .invgain _ t0 | .pan _ t0
  | .out _ t0 | .loadval _ t0 => [t0]
  | .filter _ t0 t1 x0 => [t0, t1, x0]
  | .delay _ t0 t1 t2 t3 t4 x0 x1 => [t0, t1, t2, t3, t4, x0, x1]
  | .compressor _ t0 t1 t2 t3 t4 | .envelope _ t0 t1 t2 t3 t4 => [t0, t1, t2, t3, t4]
  | .outaux _ t0 t1 | .noise _ t0 t1 => [t0, t1]
  | .aux _ t0 x0 => [t0, x0]
  | .send _ t0 a => [t0, lowByte a, highByte a]
  | .oscillator _ t0 t1 t2 t3 t4 t5 x0 none => [t0, t1, t2, t3, t4, t5, x0]
  | .oscillator _ t0 t1 t2 t3 t4 t5 x0 (some g) =>
    [t0, t1, t2, t3, t4, t5, x0, lowByte g, highByte g]
  | .input _ x0 => [x0]

/-- The encoder: the command byte and the value bytes of an instruction (R300). -/
def encode (i : Instr) : Byte × List Byte := (i.command, i.operands)

/-- Byte `k` of an instruction numbered as spec/opcode_table.json numbers it: the command byte is
bits 7..0 and value byte `k - 1` follows at bits `8k+7..8k`; bits at `nbits` and above are 0. -/
def tableByte (nbits w k : Nat) : Byte := BitVec.ofNat 8 ((w % 2 ^ nbits) / 2 ^ (8 * k))

/-- The value bytes of such an instruction, up to the longest operand group, nine bytes (R313). -/
def tableOperands (nbits w : Nat) : List Byte :=
  [tableByte nbits w 1, tableByte nbits w 2, tableByte nbits w 3, tableByte nbits w 4,
   tableByte nbits w 5, tableByte nbits w 6, tableByte nbits w 7, tableByte nbits w 8,
   tableByte nbits w 9]

/-- The instruction the decoder reads from an instruction whose bits are `w`, of which the opcode
table gives `nbits`. -/
def decodeTableWord (nbits w : Nat) : Option Instr :=
  match decode (tableByte nbits w 0) (tableOperands nbits w) with
  | .instr i => some i
  | _ => none

end Sys2Proof
end

