-- ==== Sys2Proof/Machine/Binary32.lean ====
section
/-! DEFINITION. Reading binary32 patterns and rounding exact rationals to them (00_scope.md R14, R15,
R17, R18). Every finite binary32 value is an integer multiple of 2^-149; that integer is its
magnitude here, so exact arithmetic is arithmetic of naturals and one function rounds. Nothing in
this file can produce a NaN; the operations that can are in Machine/Arith.lean.
-/
namespace Sys2Proof.Machine

/-- The biased exponent, bits 30:23 (R15). -/
def expField (x : F32) : Nat := x.toNat / 2 ^ 23 % 256

/-- The fraction, bits 22:0 (R15). -/
def fracField (x : F32) : Nat := x.toNat % 2 ^ 23

/-- The sign, bit 31 (R15). -/
def isNeg (x : F32) : Bool := x.getLsbD 31

/-- A NaN encoding: exponent all ones and a non-zero fraction. -/
def isNaN (x : F32) : Bool := expField x == 255 && fracField x != 0

/-- A finite value: exponent not all ones. -/
def isFinite (x : F32) : Bool := expField x != 255

/-- An infinity: exponent all ones and a zero fraction. -/
def isInf (x : F32) : Bool := expField x == 255 && fracField x == 0

/-- The magnitude of a finite value in units of 2^-149: a subnormal is its fraction, a normal value
has the hidden bit. An infinity gets 2^277, above every finite magnitude. -/
def magnitude (x : F32) : Nat :=
  if expField x = 0 then fracField x else (2 ^ 23 + fracField x) * 2 ^ (expField x - 1)

/-- The signed value in units of 2^-149; both zeros are 0. -/
def scaled (x : F32) : Int := if isNeg x then -(magnitude x : Int) else magnitude x

/-- Both zeros. -/
def isZero (x : F32) : Bool := magnitude x == 0

/-- The integer nearest the non-negative rational `num / den`, ties to even (R14). -/
def nearestEven (num den : Nat) : Nat :=
  let q := num / den
  let r := num % den
  if 2 * r < den then q else if den < 2 * r then q + 1 else q + q % 2

/-- The bits 30:0 of the binary32 nearest `num / den` units of 2^-149 (R14). The quotient has
`24 + e` bits with `e` the number of bits to drop, so the significand is `num / (den * 2^e)` rounded
to even. Adding it to `e * 2^23` puts its hidden bit into the exponent field and carries a
rounded-up significand into the next binade; at 2^128 and above the result is infinity. -/
def roundBits (num den : Nat) : Nat :=
  let e := Nat.log2 (num / den) - 23
  min (e * 2 ^ 23 + nearestEven num (den * 2 ^ e)) 0x7F800000

/-- The binary32 with the given sign nearest `num / den` units of 2^-149. -/
def roundRat (neg : Bool) (num den : Nat) : F32 :=
  BitVec.ofNat 32 ((if neg then 2 ^ 31 else 0) + roundBits num den)

/-- A zero with the given sign. -/
def zeroOf (neg : Bool) : F32 := if neg then 0x80000000 else 0x00000000

/-- An infinity with the given sign. -/
def infOf (neg : Bool) : F32 := if neg then 0xFF800000 else 0x7F800000

/-- `ToF32(n)`, the binary32 nearest the integer `n`, ties to even (R17). -/
def ofInt (n : Int) : F32 := roundRat (n < 0) (n.natAbs * 2 ^ 149) 1

/-- The value `b / 128` of a parameter byte, which is exact (R22). -/
def paramByte (b : Byte) : F32 := roundRat false (b.toNat * 2 ^ 149) 128

/-- Unary minus flips the sign bit.
DEDUCED (log entry 11): R560 and R569 write `-detune`; the rule names no operation for it. -/
def fneg (x : F32) : F32 := x ^^^ 0x80000000

/-- `Abs(x)` clears the sign bit (R17). -/
def fabs (x : F32) : F32 := x &&& 0x7FFFFFFF

/-- `x < y`, false when either operand is NaN (R18). -/
def flt (x y : F32) : Bool := !isNaN x && !isNaN y && decide (scaled x < scaled y)

/-- `x <= y`, false when either operand is NaN (R18). -/
def fle (x y : F32) : Bool := !isNaN x && !isNaN y && decide (scaled x ≤ scaled y)

/-- `x == y`, false when either operand is NaN; the two zeros are equal.
DEDUCED (log entry 12): R500 compares stage codes with `==`. -/
def feq (x y : F32) : Bool := !isNaN x && !isNaN y && decide (scaled x = scaled y)

/-- `Floor(x)` of a value that is no NaN: the largest integer-valued binary32 not greater than `x`,
an infinity itself (R17). A value that is an integer already, -0.0 among them, is returned as it is.
DEDUCED (log entry 13): the sign of a zero result. -/
def floorNumber (x : F32) : F32 :=
  if !isFinite x || magnitude x % 2 ^ 149 == 0 then x else ofInt (scaled x / 2 ^ 149)

/-- `TruncI(x)` of a finite value: the fraction discarded, toward zero (R17). -/
def truncInt (x : F32) : Int := (scaled x).tdiv (2 ^ 149)

/-- +0.0 -/
def f0 : F32 := 0x00000000
/-- 0.5 -/
def fHalf : F32 := 0x3F000000
/-- 1.0 -/
def f1 : F32 := 0x3F800000
/-- -1.0 -/
def fNeg1 : F32 := 0xBF800000
/-- 1.5 -/
def f1_5 : F32 := 0x3FC00000
/-- 2.0 -/
def f2 : F32 := 0x40000000
/-- 3.0 -/
def f3 : F32 := 0x40400000
/-- 12.0 -/
def f12 : F32 := 0x41400000
/-- 16.0 -/
def f16 : F32 := 0x41800000
/-- 64.0 -/
def f64 : F32 := 0x42800000
/-- -24.0, the exponent scale of `nonLinearMap` (R20) -/
def fNeg24 : F32 := 0xC1C00000
/-- 32767.0, the tap-modulation scale of `delay` (R542) -/
def f32767 : F32 := 0x46FFFE00
/-- -2147483648.0, the divisor of `rand` (R21) -/
def fNegTwo31 : F32 := 0xCF000000
/-- `C_AUDIO` (R15) -/
def cAudio : F32 := 0x38C265DC
/-- `C_LFO` (R15) -/
def cLfo : F32 := 0x381F6230
/-- `K_SPEED` (R15) -/
def kSpeed : F32 := 0x400D3DCB
/-- `TWELFTH` (R15) -/
def twelfth : F32 := 0x3DAAAAAB
/-- `TWO_PI` (R15) -/
def twoPi : F32 := 0x40C90FDB
/-- `DC_POLE`, 255/256 exactly (R15) -/
def dcPole : F32 := 0x3F7F0000

end Sys2Proof.Machine
end

