-- ==== Sys2Proof/Config.lean ====
section
/-! DEFINITION. What the spec leaves to an implementation (00_scope.md R8) and the free values: constants
without a body, of which nothing can be proved but what their types say. The two parameters that are
plain data, P_STACK_CAP and P_ROUND_TIE, are held in the state (Machine/State.lean, `Params`), so
that every statement is about all of their values. The fixed sizes of R7 stand here too.
-/
namespace Sys2Proof

/-- `MAX_COMMANDS` (R7) -/
def Config.maxCommands : Nat := 2048
/-- `MAX_VALUES` (R7) -/
def Config.maxValues : Nat := 16384
/-- `MAX_VOICES` (R7) -/
def Config.maxVoices : Nat := 32
/-- `MAX_UNITS` (R7) -/
def Config.maxUnits : Nat := 63
/-- `SCRATCH_DEPTH` (R7) -/
def Config.scratchDepth : Nat := 4

/-- Free value (R18, D5): the sign bit of the NaN that draw `n` produces. -/
opaque Config.nanSign : Nat → Bool

/-- Free value (R18, D5): the fraction of the NaN that draw `n` produces, less one. -/
opaque Config.nanPayload : Nat → Fin 8388607

/-- `P_NAN` (R8, R18): the pattern of the NaN that draw `n` produces, any NaN encoding whatever. -/
def Config.nan (n : Nat) : F32 :=
  BitVec.ofNat 32
    ((if Config.nanSign n then 2 ^ 31 else 0) + (0x7F800001 + (Config.nanPayload n).val))

/-- What R16 says of `P_EXP2` and nothing more: a total function on binary32, 1 at both zeros,
monotone non-decreasing in the ordered comparison of R18 (log entry 4). Its value at a NaN is open. -/
structure Config.Exp2 where
  apply : F32 → F32
  posZero : apply 0x00000000 = 0x3F800000
  negZero : apply 0x80000000 = 0x3F800000
  monotone : ∀ x y, Machine.fle x y = true → Machine.fle (apply x) (apply y) = true

/-- Functions as R16 asks for exist, so the type of `P_EXP2` is not empty. -/
abbrev Config.exp2Exists : Inhabited Config.Exp2 :=
  ⟨{ apply := fun _ => 0x3F800000, posZero := rfl, negZero := rfl,
     monotone := fun _ _ _ => by decide }⟩

/-- Free value: `P_EXP2` (R8, R16), some function with the properties of `Config.Exp2`. -/
opaque Config.pExp2 [Inhabited Config.Exp2] : Config.Exp2

/-- Free value: `P_SIN` (R8, R16), a total function. -/
opaque Config.pSin : F32 → F32

/-- Free value: `P_POW` (R8, R16), a total function. -/
opaque Config.pPow : F32 → F32 → F32

end Sys2Proof
end

