-- ==== Sys2Proof/Machine/Arith.lean ====
section
/-! DEFINITION. The core's signal arithmetic (00_scope.md R14 to R20).

Every operation that may produce a NaN takes a draw: its NaN has the pattern `Config.nan d` with `d`
the draw counter, which the operation advances (R18: a draw under no law; log entry 3). `Num` carries
that counter and nothing else, so a numeric computation can change no other state. Inside a `do`
block the operations are written as the rule's formula is, and run left to right.
-/
namespace Sys2Proof.Machine

/-- A numeric computation: from the draw counter to a value and the counter after it. -/
abbrev Num := StateM Nat

/-- `a + b` under R14, with `d` the draw a NaN result takes. -/
def addAt (d : Nat) (a b : F32) : F32 :=
  if isNaN a || isNaN b then Config.nan d
  else if isInf a then (if isInf b && isNeg a != isNeg b then Config.nan d else a)
  else if isInf b then b
  else if scaled a + scaled b = 0 then zeroOf (isNeg a && isNeg b)
  else roundRat (scaled a + scaled b < 0) (scaled a + scaled b).natAbs 1

/-- `a * b` under R14; the sign is the exclusive or of the operand signs (R422). -/
def mulAt (d : Nat) (a b : F32) : F32 :=
  let neg := isNeg a != isNeg b
  if isNaN a || isNaN b then Config.nan d
  else if isInf a || isInf b then (if isZero a || isZero b then Config.nan d else infOf neg)
  else roundRat neg (magnitude a * magnitude b) (2 ^ 149)

/-- `a / b` under R14: division by zero gives an infinity, 0/0 a NaN. -/
def divAt (d : Nat) (a b : F32) : F32 :=
  let neg := isNeg a != isNeg b
  if isNaN a || isNaN b then Config.nan d
  else if isInf a then (if isInf b then Config.nan d else infOf neg)
  else if isInf b then zeroOf neg
  else if isZero b then (if isZero a then Config.nan d else infOf neg)
  else roundRat neg (magnitude a * 2 ^ 149) (magnitude b)

/-- `a - b` is `a + (-b)`. -/
def subAt (d : Nat) (a b : F32) : F32 := addAt d a (fneg b)

/-- `a + b` -/
def fadd (a b : F32) : Num F32 := fun d => (addAt d a b, d + 1)
/-- `a - b` -/
def fsub (a b : F32) : Num F32 := fun d => (subAt d a b, d + 1)
/-- `a * b` -/
def fmul (a b : F32) : Num F32 := fun d => (mulAt d a b, d + 1)
/-- `a / b` -/
def fdiv (a b : F32) : Num F32 := fun d => (divAt d a b, d + 1)

/-- `Floor(x)`; Floor of NaN is NaN (R17). -/
def ffloor (x : F32) : Num F32 :=
  fun d => (if isNaN x then Config.nan d else floorNumber x, d + 1)

/-- `Exp2F(x)` is `P_EXP2(x)` (R16). The zeros, whose value R16 fixes, are written out so that they
can be computed; `Laws.exp2F_eq` says the function is `P_EXP2` everywhere. -/
def exp2F (x : F32) : F32 :=
  if x = 0x00000000 ∨ x = 0x80000000 then f1 else (@Config.pExp2 Config.exp2Exists).apply x

/-- `SinF(x)` is `P_SIN(x)` (R16). -/
def sinF (x : F32) : F32 := Config.pSin x

/-- `PowF(x, y)` is `P_POW(x, y)` (R16). -/
def powF (x y : F32) : F32 := Config.pPow x y

/-- `nonLinearMap(x)` is `Exp2F(-24 * x)` (R20). -/
def nonLinearMap (x : F32) : Num F32 := do
  return exp2F (← fmul fNeg24 x)

/-- `waveshape(x, a)` is `(x * a) / ((1 - a) + ((2 * a - 1) * Abs(x)))`, in this order (R19).
DEDUCED (log entries 23, 27): the formula, also where R19's derived cases differ from it. -/
def waveshape (x a : F32) : Num F32 := do
  fdiv (← fmul x a) (← fadd (← fsub f1 a) (← fmul (← fsub (← fmul f2 a) f1) (fabs x)))

/-- The signed form `p * 2 - 1` of a parameter (R22). DEDUCED (log entry 24): the formula holds for every
byte, where R440, R521 and R562 give other values for bytes of 128 and more. -/
def signedParam (p : F32) : Num F32 := do
  fsub (← fmul p f2) f1

end Sys2Proof.Machine
end

