-- ==== Sys2Proof/Machine/State.lean ====
section
/-! DEFINITION. The state of the core (10_state.md), as plain data, and its value right after reset.
INVENTORY.md lists every field with its rule and its reset value.
-/
namespace Sys2Proof.Machine

/-- Why a step of the model stops. There is no constructor: every fault the spec describes is taken
(60_exceptions.md R710), which is a next state, and R213 makes every index outside its space such a
fault. So no step of this model stops with a fault, which is safe. -/
inductive Fault where
deriving DecidableEq, Repr

/-- Why a step of the model has no meaning. -/
inductive Refusal where
  /-- Raised by an arm of `exec` whose instruction has no meaning yet; no arm does. Safe. -/
  | notModelled (mnemonic : String)
deriving DecidableEq, Repr

/-- `P_ROUND_TIE` (R8, R17): how the nearest integer is chosen at an exact half-integer. -/
inductive RoundTie where
  | awayFromZero
  | toEven
deriving DecidableEq, Repr

/-- The implementation parameters of R8 that are plain data. No step changes them. -/
structure Params where
  /-- `P_STACK_CAP - 4`: R8 asks for a capacity of at least 4 (log entry 1). -/
  stackSpare : Nat
  /-- `P_ROUND_TIE` (log entry 2). -/
  roundTie : RoundTie
deriving DecidableEq, Repr

/-- The installed program (R100 to R105). -/
structure BytePatch where
  commands : List Byte
  values : List Byte
  delayTimes : List Half
  numVoices : Nat
  polyphonyBitmask : Word
deriving DecidableEq, Repr

/-- A sparse space of binary32 words: (index, word) pairs with rising indices and no +0.0 word. An
index that is not listed reads +0.0, the reset value of every word of voice and delay memory (R109,
R112). The unit of access is the word, not the byte (R200, R207; log entry 14). -/
abbrev Memory := List (Nat × F32)

/-- A voice record (R109): the note, the release flag, and the 63 unit records as one word space
(`stateKey` and `portKey` in Machine/Ops.lean place the 16 words of a unit). -/
structure Voice where
  note : Byte
  release : Bool
  units : Memory
deriving DecidableEq, Repr

/-- A delay line (R112): a ring of 65536 words, the damping state and the DC-blocker state. -/
structure DelayLine where
  buffer : Memory
  dampState : F32
  dcIn : F32
  dcFiltState : F32
deriving DecidableEq, Repr

/-- The subcases of `RenderFault` (60_exceptions.md R703), in their order. -/
inductive RenderSubcase where
  | commandStreamEnded | unitOverflow | channelRange | portRange | sendTarget
  | delayLinesExhausted | delayTimeIndex | nonFiniteIndex | syncBufferFull | stackOverflow
deriving DecidableEq, Repr

/-- The faults a Render call can end with (R700 to R704). They are taken, never a stop of the model. -/
inductive RenderError where
  | valueStreamEnded
  | stackUnderflow
  | stackNotEmpty
  | invalidOpcode (command : Byte)
  | renderFault (subcase : RenderSubcase)
deriving DecidableEq, Repr

/-- The load errors of Create and Update (R602, R700). -/
inductive LoadError where
  | commandsTooLong | valuesTooLong | tooManyVoices | unknownOpcode | tooManyUnits
deriving DecidableEq, Repr

/-- The fault record of R710. -/
structure FaultRecord where
  cmdIndex : Option Nat
  cmdByte : Option Byte
  voice : Nat
  unit : Nat
  time : Int
deriving DecidableEq, Repr

/-- The error part of a Render result (R630, R700). DESIGN CHOICE (log entry 26): `E_POISONED` carries no
fault record. R700 says a Render error value carries one, R711 and R630 return the code alone, and no
fault is raised. -/
inductive RenderStatus where
  | ok
  | faulted (error : RenderError) (record : FaultRecord)
  | poisoned
deriving DecidableEq, Repr

/-- What a host command returns to the host (R600). -/
inductive HostResult where
  /-- Create and Update: `OK` is `none`. -/
  | loaded (error : Option LoadError)
  /-- Trigger and Release return nothing. -/
  | silent
  | rendered (samples syncs : Nat) (time : Int) (status : RenderStatus)
deriving DecidableEq, Repr

/-- The host commands and their arguments (R600). The buffers of Render are the host's memory with
its contents; their lengths are `bufCap` and `syncCap`. -/
inductive HostCommand where
  | create (patch : BytePatch)
  | trigger (voice : Int) (note : Byte)
  | release (voice : Int)
  | update (patch : BytePatch)
  | render (buffer syncBuffer : List F32) (maxtime : Int)
deriving DecidableEq, Repr

/-- Where the core stands: between host commands (R641), at the test of the sample loop (R400), or
inside a sample step (R401). -/
inductive Phase where
  | idle
  | loopTest
  | sampleStep
deriving DecidableEq, Repr

/-- The whole state of the core. -/
structure State where
  /-- implementation parameters (R8) -/
  cfg : Params
  /-- the installed BytePatch (R100) -/
  patch : BytePatch
  /-- R106 -/
  randSeed : Word
  /-- R107 -/
  globalTime : Word
  /-- the output bus (R108) -/
  outputs : Vector F32 8
  /-- voice memory (R109) -/
  voices : Vector Voice 32
  /-- delay memory (R112); `NumDelayLines` is its length -/
  lines : List DelayLine
  /-- the signal stack (R113), top first: element `k` is `stk[l-1-k]`, the length is `l` -/
  stk : List F32
  /-- R115, R711 -/
  poisoned : Bool
  /-- the command cursor (R120) -/
  cc : Nat
  /-- the value cursor (R121) -/
  vc : Nat
  /-- the saved instrument start (R122) -/
  cci : Nat
  vci : Nat
  /-- the current voice (R123: 0..31) -/
  vi : Fin 32
  /-- the voices remaining (R123) -/
  vr : Nat
  /-- the current unit (R123) -/
  ui : Nat
  /-- the delay-line cursor (R124) -/
  dl : Nat
  /-- the materialised parameters (R125) -/
  params : Vector F32 6
  /-- the Render registers (R126) -/
  time : Int
  maxtime : Int
  samples : Nat
  syncs : Nat
  syncPos : Nat
  bufPos : Nat
  stepStartTime : Int
  stepStartSyncs : Nat
  /-- the host's output buffer of the Render call (R203) -/
  buffer : List F32
  /-- the host's sync buffer of the Render call (R203) -/
  syncBuffer : List F32
  /-- the model's own: where the core stands (log entry 8) -/
  phase : Phase
  /-- the model's own: host commands not yet run, oldest first (R640; log entry 9) -/
  hostQueue : List HostCommand
  /-- the model's own: what the last host command returned (R600; log entry 10) -/
  result : Option HostResult
  /-- the model's own: the draw counter of the NaN patterns (R18; log entry 3) -/
  draws : Nat
deriving DecidableEq, Repr

/-- The BytePatch with nothing in it. DESIGN CHOICE (log entry 7): reset is Create (R801), whose patch
the host gives; the model's reset is the Create of this one. -/
def emptyPatch : BytePatch :=
  { commands := [], values := [], delayTimes := [], numVoices := 0, polyphonyBitmask := 0 }

/-- A voice record after Create (R109, R601). -/
def zeroVoice : Voice := { note := 0, release := false, units := [] }

/-- A delay line after Create or added by Update (R112, R620). -/
def zeroLine : DelayLine := { buffer := [], dampState := 0, dcIn := 0, dcFiltState := 0 }

/-- The machine right after reset: the state Create leaves (R601, R800). Values R800 marks "n/o" are
zero (log entry 6), the parameters are those of 95_test_vectors.md section 0 (log entries 1, 2). -/
def State.reset : State where
  cfg := { stackSpare := 60, roundTie := .awayFromZero }
  patch := emptyPatch
  randSeed := 1
  globalTime := 0
  outputs := Vector.replicate 8 0
  voices := Vector.replicate 32 zeroVoice
  lines := []
  stk := []
  poisoned := false
  cc := 0
  vc := 0
  cci := 0
  vci := 0
  vi := 0
  vr := 0
  ui := 0
  dl := 0
  params := Vector.replicate 6 0
  time := 0
  maxtime := 0
  samples := 0
  syncs := 0
  syncPos := 0
  bufPos := 0
  stepStartTime := 0
  stepStartSyncs := 0
  buffer := []
  syncBuffer := []
  phase := .idle
  hostQueue := []
  result := none
  draws := 0

end Sys2Proof.Machine
end

