-- ==== Sys2Proof/Machine/Ops.lean ====
section
/-! DEFINITION. The named operations over memory and registers, and taking a fault (10_state.md,
20_memory.md, 60_exceptions.md). A handler is an `M` computation: it reads and writes the state in
the order of its rule's pseudocode, and where the pseudocode raises a fault the writes made so far
stay (R710).
-/
namespace Sys2Proof.Machine

/-! ### Word spaces -/

/-- Reads one word; an unlisted word is +0.0 (R109, R112). -/
def Memory.read : Memory → Nat → F32
  | [], _ => f0
  | (b, y) :: m, a => if a = b then y else if a < b then f0 else Memory.read m a

/-- Writes one word and keeps the canonical form: writing +0.0 removes the entry. -/
def Memory.write : Memory → Nat → F32 → Memory
  | [], a, x => if x = f0 then [] else [(a, x)]
  | (b, y) :: m, a, x =>
    if a < b then (if x = f0 then (b, y) :: m else (a, x) :: (b, y) :: m)
    else if a = b then (if x = f0 then m else (a, x) :: m)
    else (b, y) :: Memory.write m a x

/-- Every index listed is above `lo`, rising, below `size`, and no listed word is +0.0. -/
def Memory.wfFrom (size : Nat) : Option Nat → Memory → Bool
  | _, [] => true
  | lo, (a, x) :: m =>
    (match lo with | none => true | some l => decide (l < a)) && decide (a < size) && x != f0 &&
      Memory.wfFrom size (some a) m

/-- The canonical form of a space of `size` words. -/
def Memory.wf (size : Nat) (m : Memory) : Bool := Memory.wfFrom size none m

/-! ### Unit records (R109, R110) -/

/-- The words of voice memory in one voice: 63 units of 8 state slots and 8 ports. -/
def unitWords : Nat := 63 * 16

/-- The place of `units[u].state[k]` in a voice's word space. -/
def stateKey (u k : Nat) : Nat := u * 16 + k

/-- The place of `units[u].ports[k]` in a voice's word space. -/
def portKey (u k : Nat) : Nat := u * 16 + 8 + k

/-- Word `key` of voice `v` in voice memory. -/
def readWord (m : Vector Voice 32) (v : Fin 32) (key : Nat) : F32 :=
  Memory.read (m.get v).units key

/-- Writes word `key` of voice `v` in voice memory. -/
def writeWord (m : Vector Voice 32) (v : Fin 32) (key : Nat) (x : F32) : Vector Voice 32 :=
  m.set v.val { m.get v with units := Memory.write (m.get v).units key x } v.isLt

/-- `V(v).units` word `key`. -/
def readUnit (s : State) (v : Fin 32) (key : Nat) : F32 := readWord s.voices v key

/-- Writes word `key` of `V(v).units`. -/
def writeUnit (s : State) (v : Fin 32) (key : Nat) (x : F32) : State :=
  { s with voices := writeWord s.voices v key x }

/-- `V(v).units[u].state[k]` (R12). -/
def readState (s : State) (v : Fin 32) (u k : Nat) : F32 := readUnit s v (stateKey u k)

/-- `V(v).units[u].state[k] <- x`. -/
def writeState (s : State) (v : Fin 32) (u k : Nat) (x : F32) : State :=
  writeUnit s v (stateKey u k) x

/-- `V(v).units[u].ports[k]` (R12). -/
def readPort (s : State) (v : Fin 32) (u k : Nat) : F32 := readUnit s v (portKey u k)

/-- `V(v).units[u].ports[k] <- x`. -/
def writePort (s : State) (v : Fin 32) (u k : Nat) (x : F32) : State :=
  writeUnit s v (portKey u k) x

/-- The executing voice `V(vi)` (R407). -/
def currentVoice (s : State) : Voice := s.voices.get s.vi

/-! ### Other registers -/

/-- `P_STACK_CAP`, at least 4 (R8). -/
def stackCap (s : State) : Nat := 4 + s.cfg.stackSpare

/-- `bufCap` and `syncCap`, the lengths of the call's buffers (R630). -/
def bufCap (s : State) : Nat := s.buffer.length
/-- See `bufCap`. -/
def syncCap (s : State) : Nat := s.syncBuffer.length

/-- `outputs[c]` (R12). -/
def readOutput (s : State) (c : Nat) : F32 := (s.outputs[c]?).getD f0

/-- `outputs[c] <- x`. -/
def writeOutput (s : State) (c : Nat) (x : F32) : State :=
  { s with outputs := s.outputs.setIfInBounds c x }

/-- `params[i]` (R125). -/
def readParam (s : State) (i : Nat) : F32 := (s.params[i]?).getD f0

/-- `(globalTime & 0xFF) == 0` (R401). -/
def syncDue (s : State) : Bool := s.globalTime &&& 0xFF#32 == 0#32

/-- The write position of the delay rings, `globalTime[15:0]` (R107, R540). -/
def ringTime (s : State) : Nat := s.globalTime.toNat % 65536

/-! ### Taking a fault (R710, R711) and recovering from it (R712) -/

/-- The codes of R700 for the errors a Render call ends with. -/
def renderErrorCode : RenderError → Nat
  | .valueStreamEnded => 16
  | .stackUnderflow => 17
  | .stackNotEmpty => 18
  | .invalidOpcode _ => 19
  | .renderFault _ => 20

/-- The subcase numbers of R703. -/
def subcaseNumber : RenderSubcase → Nat
  | .commandStreamEnded => 1
  | .unitOverflow => 2
  | .channelRange => 3
  | .portRange => 4
  | .sendTarget => 5
  | .delayLinesExhausted => 6
  | .delayTimeIndex => 7
  | .nonFiniteIndex => 8
  | .syncBufferFull => 9
  | .stackOverflow => 10

/-- The codes of R700 for load errors; `OK` is 0. -/
def loadErrorCode : Option LoadError → Nat
  | none => 0
  | some .commandsTooLong => 1
  | some .valuesTooLong => 2
  | some .tooManyVoices => 3
  | some .unknownOpcode => 4
  | some .tooManyUnits => 5

/-- The code of R700 for a Render status. -/
def statusCode : RenderStatus → Nat
  | .ok => 0
  | .faulted e _ => renderErrorCode e
  | .poisoned => 21

/-- The fault record of R710. `site` is the index of the faulting command, `len(Commands)` when the
command stream ended, and none for an end-of-step or sync-record fault. -/
def faultRecord (site : Option Nat) (s : State) : FaultRecord :=
  { cmdIndex := site
    cmdByte := site.bind fun i => s.patch.commands[i]?
    voice := s.vi.val
    unit := s.ui
    time := s.stepStartTime }

/-- Fault entry (R710): the core is poisoned, the Render call is over and returns
`(samples, stepStartSyncs, stepStartTime, err)`; nothing else changes, so the partial state stays
(R711). -/
def faultEntry (e : RenderError) (site : Option Nat) (s : State) : State :=
  { s with
    poisoned := true
    phase := .idle
    result := some (.rendered s.samples s.stepStartSyncs s.stepStartTime
      (.faulted e (faultRecord site s))) }

/-- The return from a fault is the host's recovery, which clears `poisoned` (R711, R712): a
successful Update or Create does it. -/
def recover (s : State) : State := { s with poisoned := false }

/-! ### Handlers -/

/-- A handler: it ends normally or raises a fault, in either case with the state it left. -/
abbrev M := EStateM RenderError State

/-- The whole state. -/
def readAll : M State := fun s => .ok s s

/-- A change of the state that cannot fault. -/
def change (f : State → State) : M Unit := fun s => .ok () (f s)

/-- `raise Fault(e)` when the condition holds. -/
def raiseIf (bad : Bool) (e : RenderError) : M Unit :=
  fun s => if bad then .error e s else .ok () s

/-- Runs a numeric computation; of the state it changes the draw counter alone. -/
def num {α : Type} (m : Num α) : M α :=
  fun s => .ok (m s.draws).1 { s with draws := (m s.draws).2 }

/-- `need(n)` (R11). -/
def need (n : Nat) : M Unit :=
  fun s => if n ≤ s.stk.length then .ok () s else .error .stackUnderflow s

/-- `push(v)` (R11): faults on a full stack. -/
def push (v : F32) : M Unit :=
  fun s => if s.stk.length < stackCap s then .ok () { s with stk := v :: s.stk }
    else .error (.renderFault .stackOverflow) s

/-- `pop(n)` (R11). -/
def drop (n : Nat) : M Unit := fun s => .ok () { s with stk := s.stk.drop n }

/-- `stk[l-1-k]`. Every use stands after a `need` that covers it. -/
def top (k : Nat) : M F32 := fun s => .ok (s.stk.getD k f0) s

/-- `stk[l-1-k] <- v`. -/
def setTop (k : Nat) (v : F32) : M Unit := fun s => .ok () { s with stk := s.stk.set k v }

/-- `params[i]`. -/
def param (i : Nat) : M F32 := fun s => .ok (readParam s i) s

/-- `U.state[k]` of the executing unit (R407). -/
def ownState (k : Nat) : M F32 := fun s => .ok (readState s s.vi s.ui k) s

/-- `U.state[k] <- x`. -/
def setOwnState (k : Nat) (x : F32) : M Unit := fun s => .ok () (writeState s s.vi s.ui k x)

/-- `U.ports[k]`. -/
def ownPort (k : Nat) : M F32 := fun s => .ok (readPort s s.vi s.ui k) s

/-- `U.ports[k] <- x`. -/
def setOwnPort (k : Nat) (x : F32) : M Unit := fun s => .ok () (writePort s s.vi s.ui k x)

/-- `TruncI(x)` (R17): faults on a non-finite value. -/
def truncI (x : F32) : M Int :=
  fun s => if isFinite x then .ok (truncInt x) s else .error (.renderFault .nonFiniteIndex) s

/-- The integer nearest a finite value; a tie is broken by `P_ROUND_TIE` (R17). -/
def roundInt (tie : RoundTie) (x : F32) : Int :=
  let q := magnitude x / 2 ^ 149
  let r := magnitude x % 2 ^ 149
  let n : Nat :=
    if 2 * r < 2 ^ 149 then q
    else if 2 ^ 149 < 2 * r then q + 1
    else match tie with
      | .awayFromZero => q + 1
      | .toEven => q + q % 2
  if isNeg x then -(n : Int) else n

/-- `RoundI(x)` (R17): faults on a non-finite value. -/
def roundI (x : F32) : M Int :=
  fun s => if isFinite x then .ok (roundInt s.cfg.roundTie x) s
    else .error (.renderFault .nonFiniteIndex) s

/-- `RoundF(x)` (R17): a non-finite value is returned as it is. -/
def roundF (tie : RoundTie) (x : F32) : F32 :=
  if isFinite x then ofInt (roundInt tie x) else x

/-- `rand()` (R21). -/
def rand : M F32 := do
  change fun s => { s with randSeed := s.randSeed * 16007 }
  let s ← readAll
  num (fdiv (ofInt s.randSeed.toInt) fNegTwo31)

/-- `SyncWrite(v)` (R401): faults when the sync buffer is full. -/
def syncWrite (v : F32) : M Unit :=
  fun s => if s.syncPos < syncCap s then
      .ok () { s with syncBuffer := s.syncBuffer.set s.syncPos v, syncPos := s.syncPos + 1 }
    else .error (.renderFault .syncBufferFull) s

/-- The channel count `ch` of the executing command (R12). -/
def ch (stereo : Bool) : Nat := if stereo then 2 else 1

/-- A loop over the channels in rising order. -/
def forChannels (stereo : Bool) (body : Nat → M Unit) : M Unit := do
  body 0
  if stereo then body 1 else pure ()

/-- `stk[l-1-i] <- f(stk[l-1-i])` for each channel, after `need(ch)` (44_transforms.md). -/
def mapChannels (stereo : Bool) (f : F32 → Num F32) : M Unit := do
  need (ch stereo)
  forChannels stereo fun i => do
    let x ← top i
    let y ← num (f x)
    setTop i y

/-- Pushes one value, and in the stereo form pushes it again (R440). -/
def pushTwice (stereo : Bool) (v : F32) : M Unit := do
  push v
  if stereo then push v else pure ()

/-- One bus add, `outputs[c] <- outputs[c] + (g * x)` in that order (43_sinks.md). -/
def busAdd (c : Nat) (g x : F32) : M Unit := do
  let p ← num (fmul g x)
  let s ← readAll
  let y ← num (fadd (readOutput s c) p)
  change fun s => writeOutput s c y

/-- One port add, `T.ports[k] <- T.ports[k] + (x * amt)` in that order (R521). -/
def portAdd (v : Fin 32) (u k : Nat) (x amt : F32) : M Unit := do
  let p ← num (fmul x amt)
  let s ← readAll
  let y ← num (fadd (readPort s v u k) p)
  change fun s => writePort s v u k y

end Sys2Proof.Machine
end

