-- ==== Sys2Proof/Machine/Operands.lean ====
section
/-! DEFINITION. The operand forms (30_encoding.md R303 to R309) and running a unit around its handler
(40_dispatch.md R405 to R408).
-/
namespace Sys2Proof.Machine

/-- `params[i] <- ToF32(b) / 128 + U.ports[i]; U.ports[i] <- +0.0` for one transformable (R406). -/
def materialiseOne (i : Nat) (b : Byte) (s : State) : State :=
  writePort
    { s with
      params := s.params.setIfInBounds i (addAt s.draws (paramByte b) (readPort s s.vi s.ui i))
      draws := s.draws + 1 }
    s.vi s.ui i f0

/-- The transformables from number `i` on. -/
def materialiseFrom : Nat → List Byte → State → State
  | _, [], s => s
  | i, b :: bs, s => materialiseFrom (i + 1) bs (materialiseOne i b s)

/-- `Materialise(tcount)` (R406) for the transformable bytes `ts`. -/
def materialise (ts : List Byte) (s : State) : State :=
  let t := materialiseFrom 0 ts s
  { t with vc := t.vc + ts.length }

/-- The value cursor after `n` extra-byte reads (R303). -/
def readExtras (n : Nat) (s : State) : State := { s with vc := s.vc + n }

/-- The state a handler starts from: the transformables are materialised, then the extra bytes read.
In every rule with extra bytes their reads stand first in the pseudocode. -/
def operandsRead (ts : List Byte) (extras : Nat) (s : State) : State :=
  readExtras extras (materialise ts s)

/-- The index in `Commands` of the command being executed: fetching it moved `cc` past it (R402). -/
def commandSite (s : State) : Option Nat := some (s.cc - 1)

/-- The handler's end: the unit cursor moves on (R408), or the fault it raised is taken (R710). -/
def finishUnit (site : Option Nat) : EStateM.Result RenderError State Unit → State
  | .ok _ t => { t with ui := t.ui + 1 }
  | .error e t => faultEntry e site t

/-- `RunUnit` (R405) with the operand group at hand: `ts` the transformable bytes, `extras` the number
of extra bytes, `handler` the opcode's rule. -/
def runUnit (ts : List Byte) (extras : Nat) (handler : M Unit) (s : State) :
    Host.Outcome State Fault Refusal :=
  if 63 ≤ s.ui then .next (faultEntry (.renderFault .unitOverflow) (commandSite s) s)
  else .next (finishUnit (commandSite s) (handler (operandsRead ts extras s)))

/-- `RunUnit` when the value stream ends inside the operand group of opcode `op`; `vs` are the bytes
that are left. Too few for the transformables: the fault comes before any of them is read (R405).
Otherwise they are materialised and the extra bytes that are there are read before it (R303, R701). -/
def runTruncated (op : Nat) (vs : List Byte) (s : State) : State :=
  if 63 ≤ s.ui then faultEntry (.renderFault .unitOverflow) (commandSite s) s
  else if vs.length < transformCount op then faultEntry .valueStreamEnded (commandSite s) s
  else
    faultEntry .valueStreamEnded (commandSite s)
      (operandsRead (vs.take (transformCount op)) (vs.length - transformCount op) s)

/-- `DecodeSend`'s result resolved to a target voice, unit and port (R520): `A - 0x8010` is taken on
integers and a negative one faults, as a unit field of 0 and a port beyond 7 do. Bit 9 is ignored. -/
def resolveSend (a : Half) (stereo : Bool) (vi : Fin 32) : Except RenderError (Fin 32 × Nat × Nat) :=
  let n := a.toNat
  let field := n / 16 % 32
  let port := n % 8
  if 0x8000 ≤ n ∧ n < 0x8010 then .error (.renderFault .sendTarget)
  else if field = 0 then .error (.renderFault .sendTarget)
  else if 8 ≤ port + stereo.toNat then .error (.renderFault .portRange)
  else
    .ok (if 0x8000 ≤ n then Fin.ofNat 32 ((n - 0x8010) / 1024) else vi, field - 1, port)

/-- Bit 3 of the send address: pop what was sent (R307). -/
def sendPops (a : Half) : Bool := a.getLsbD 3

/-- The line count of a `delay` count byte (R308). -/
def delayLineCount (count : Byte) : Nat :=
  if count.toNat % 2 = 0 then count.toNat / 2 else count.toNat

/-- Pitched mode is an even count (R308). -/
def delayPitched (count : Byte) : Bool := count.toNat % 2 == 0

/-- The channel test of `aux` and `in`: `c + s >= 8` (R309). -/
def channelBad (channel : Byte) (stereo : Bool) : Bool := decide (8 ≤ channel.toNat + stereo.toNat)

end Sys2Proof.Machine
end

