-- ==== Sys2Proof/Machine/Flags.lean ====
section
/-! DEFINITION. The flags of the core: the voice's release flag and the envelope's stage code
(10_state.md R116; the third flag, `poisoned`, is written by `faultEntry` and `recover`), and the
fields of the two flags bytes (30_encoding.md R305, R306).
-/
namespace Sys2Proof.Machine

/-- The release flag of the executing voice (R500). -/
def releaseFlag (s : State) : Bool := (currentVoice s).release

/-- The stage codes an envelope keeps in `state[0]` (R500). -/
def stageAttack : F32 := f0
/-- See `stageAttack`. -/
def stageDecay : F32 := f1
/-- See `stageAttack`. -/
def stageSustain : F32 := f2
/-- See `stageAttack`. -/
def stageRelease : F32 := f3

/-- The stage an envelope runs in: the release flag forces Release (R500). -/
def stageNow (release : Bool) (stage : F32) : F32 := if release then stageRelease else stage

/-- The five taps a filter flags byte selects, in the order they are summed (R305, R502). -/
def tapLow (flags : Byte) : Bool := flags.getLsbD 6
/-- See `tapLow`. -/
def tapBand (flags : Byte) : Bool := flags.getLsbD 5
/-- See `tapLow`. -/
def tapHigh (flags : Byte) : Bool := flags.getLsbD 4
/-- See `tapLow`. -/
def tapNegBand (flags : Byte) : Bool := flags.getLsbD 3
/-- See `tapLow`. -/
def tapNegHigh (flags : Byte) : Bool := flags.getLsbD 2

/-- The waveforms of the oscillator (R561). -/
inductive Waveform where
  | sine | trisaw | pulse | gate | none
deriving DecidableEq, Repr

/-- `Select(flags)`: the highest-priority waveform bit (R561). -/
def selectWave (flags : Byte) : Waveform :=
  if flags.getLsbD 6 then .sine
  else if flags.getLsbD 5 then .trisaw
  else if flags.getLsbD 4 then .pulse
  else if flags.getLsbD 2 then .gate
  else .none

/-- `flags & 3`, the number of additional partials (R306). -/
def unisonOf (flags : Byte) : Nat := flags.toNat % 4

/-- The LFO bit (R306). -/
def lfoFlag (flags : Byte) : Bool := flags.getLsbD 3

end Sys2Proof.Machine
end

