-- ==== Sys2Proof/Machine/Control.lean ====
section
/-! DEFINITION. The one control transfer, `advance` (40_dispatch.md R404).
-/
namespace Sys2Proof.Machine

/-- The share flag of the voice that comes next: bit `vr` of the bitmask, with `vr` the voices
remaining after the decrement (R105, R404). -/
def shareBit (mask : Word) (vr : Nat) : Bool := mask.getLsbD vr

/-- `advance` (R404); the stereo bit is ignored (R310). It raises nothing, moves no unit cursor of its
own, and leaves `dl` where it is (R124). -/
def execAdvance (_stereo : Bool) (s : State) : Host.Outcome State Fault Refusal :=
  .next
    (if s.vr - 1 = 0 then { s with vr := s.vr - 1 }
    else if shareBit s.patch.polyphonyBitmask (s.vr - 1) then
      { s with vr := s.vr - 1, vi := s.vi + 1, ui := 0, cc := s.cci, vc := s.vci }
    else
      { s with vr := s.vr - 1, vi := s.vi + 1, ui := 0, cci := s.cc, vci := s.vc })

end Sys2Proof.Machine
end

