-- ==== Sys2Proof/Machine/Delay.lean ====
section
/-! DEFINITION. The delay-line unit (47_delay.md R540 to R543).
-/
namespace Sys2Proof.Machine

/-- `Line(d)` (R12). -/
def readLine (s : State) (d : Nat) : DelayLine := (s.lines[d]?).getD zeroLine

/-- Writes line `d`. -/
def writeLine (s : State) (d : Nat) (l : DelayLine) : State := { s with lines := s.lines.set d l }

/-- `L <- Line(dl); dl <- dl + 1`, or the fault of an exhausted delay memory (R542). The result is the
line's index. -/
def takeLine : M Nat :=
  fun s => if s.dl < s.lines.length then .ok s.dl { s with dl := s.dl + 1 }
    else .error (.renderFault .delayLinesExhausted) s

/-- `DelayTime(i)`, or the fault of an index beyond the table (R202, R542). -/
def delayTime (i : Nat) : M Half :=
  fun s => match s.patch.delayTimes[i]? with
    | some d => .ok d s
    | none => .error (.renderFault .delayTimeIndex) s

/-- The delay in samples before rounding: the table entry plus the tap modulation, in pitched mode
divided by `Exp2F(ToF32(note) / 12)` (R542). -/
def delayLength (entry : Half) (port4 : F32) (pitched : Bool) (note : Byte) : Num F32 := do
  let d ← fadd (ofInt entry.toNat) (← fmul port4 f32767)
  if pitched then fdiv d (exp2F (← fdiv (ofInt note.toNat) f12)) else pure d

/-- The ring index of the tap, `(t - r) mod 65536` on integers (R542). -/
def tapIndex (t : Nat) (r : Int) : Nat := (((t : Int) - r) % 65536).toNat

/-- What one line computes from its tap `del` (R542): the new damping state, and the word for the
ring. -/
def lineNext (pg2 fb damp x : F32) (damped del : F32) : Num (F32 × F32) := do
  let d ← fadd (← fmul damp damped) (← fmul (← fsub f1 damp) del)
  let w ← fadd (← fmul fb d) (← fmul pg2 x)
  return (d, w)

/-- `DelayLine(out, x)` (R542) with the DelayTimes entry `index`: the tap is read before the ring is
written at `t`. The result is the new sum. -/
def delayLine (pitched : Bool) (pg2 fb damp x out : F32) (index : Nat) : M F32 := do
  let line ← takeLine
  let entry ← delayTime index
  let port4 ← ownPort 4
  let s ← readAll
  let d ← num (delayLength entry port4 pitched (currentVoice s).note)
  let r ← roundI d
  let del := Memory.read (readLine s line).buffer (tapIndex (ringTime s) r)
  let out' ← num (fadd out del)
  let next ← num (lineNext pg2 fb damp x (readLine s line).dampState del)
  change fun t => writeLine t line
    { readLine t line with
      dampState := next.1
      buffer := Memory.write (readLine t line).buffer (ringTime t) next.2 }
  return out'

/-- The line loop of one channel: `n` lines with consecutive DelayTimes entries (R540, R541). -/
def delayLines (pitched : Bool) (pg2 fb damp x : F32) : Nat → F32 → Nat → M F32
  | 0, out, _ => pure out
  | n + 1, out, index => do
    let out' ← delayLine pitched pg2 fb damp x out index
    delayLines pitched pg2 fb damp x n out' (index + 1)

/-- `DCBlock(L, out)` (R543) on line `line`. -/
def dcBlock (line : Nat) (out : F32) : M F32 := do
  let s ← readAll
  let y ← num do
    fsub (← fadd out (← fmul dcPole (readLine s line).dcFiltState)) (readLine s line).dcIn
  change fun t => writeLine t line { readLine t line with dcFiltState := y, dcIn := out }
  return y

/-- One channel of `delay` (R540, R541): channel `i` starts at entry `index + i * n`, and the last of
its lines, the one before the cursor, keeps its DC-blocker state (R543). -/
def delayChannel (pitched : Bool) (pg2 dry fb damp : F32) (n index i : Nat) : M Unit := do
  let x ← top i
  let out ← num (fmul dry x)
  let sum ← delayLines pitched pg2 fb damp x n out (index + i * n)
  let s ← readAll
  let y ← dcBlock (s.dl - 1) sum
  setTop i y

/-- `delay` (R540). The `depth` transformable is materialised and not used. -/
def execDelay (stereo : Bool) (pregain dry feedback depth damp index count : Byte) (s : State) :
    Host.Outcome State Fault Refusal :=
  runUnit [pregain, dry, feedback, depth, damp] 2
    (do
      need (ch stereo)
      raiseIf (delayLineCount count == 0) (.renderFault .delayLinesExhausted)
      let pg ← param 0
      let pg2 ← num (fmul pg pg)
      let dryP ← param 1
      let fb ← param 2
      let dampP ← param 4
      forChannels stereo fun i =>
        delayChannel (delayPitched count) pg2 dryP fb dampP (delayLineCount count) index.toNat i
      setOwnPort 4 f0) s

end Sys2Proof.Machine
end

