-- ==== Sys2Proof/Machine/Modulators.lean ====
section
/-! DEFINITION. The modulators: envelope, hold, filter and compressor (45_modulators.md R500 to R503).
-/
namespace Sys2Proof.Machine

/-- One sample of the envelope's state machine (R500): from the stage the envelope runs in and its
level to the stage and level after. A comparison with a NaN is false, so a NaN level stays.
DEDUCED (log entry 27): a Release with rate 1 from above 1 falls by 1, as the pseudocode has it. -/
def envelopeNext (attack decay sustain release : F32) (stage level : F32) : Num (F32 × F32) :=
  if feq stage stageAttack then do
    let l ← fadd level (← nonLinearMap attack)
    return if fle f1 l then (stageDecay, f1) else (stage, l)
  else if feq stage stageDecay then do
    let l ← fsub level (← nonLinearMap decay)
    return (stage, if fle l sustain then sustain else l)
  else if feq stage stageRelease then do
    let l ← fsub level (← nonLinearMap release)
    return (stage, if flt l f0 then f0 else l)
  else return (stage, level)

/-- `envelope` (R500). The pushed product is formed for each push. -/
def execEnvelope (stereo : Bool) (attack decay sustain release gain : Byte) (s : State) :
    Host.Outcome State Fault Refusal :=
  runUnit [attack, decay, sustain, release, gain] 0
    (do
      let t ← readAll
      let stage ← ownState 0
      let level ← ownState 1
      let next ← num (envelopeNext (readParam t 0) (readParam t 1) (readParam t 2) (readParam t 3)
        (stageNow (releaseFlag t) stage) level)
      setOwnState 0 next.1
      setOwnState 1 next.2
      forChannels stereo fun _ => do
        let y ← num (fmul next.2 (readParam t 4))
        push y) s

/-- One channel of `hold` (R501). -/
def holdChannel (freq2 : F32) (i : Nat) : M Unit := do
  let ph0 ← ownState i
  let held ← ownState (2 + i)
  let x ← top i
  let ph ← num (fsub ph0 freq2)
  let bumped ← num (fadd ph f1)
  setOwnState (2 + i) (if fle ph f0 then x else held)
  setOwnState i (if fle ph f0 then bumped else ph)
  let y ← ownState (2 + i)
  setTop i y

/-- `hold` (R501) -/
def execHold (stereo : Bool) (holdfreq : Byte) (s : State) : Host.Outcome State Fault Refusal :=
  runUnit [holdfreq] 0
    (do
      need (ch stereo)
      let p ← param 0
      let freq2 ← num (fmul p p)
      forChannels stereo fun i => holdChannel freq2 i) s

/-- The sum of the taps a flags byte selects, from +0.0 in the order of R502. -/
def filterTaps (flags : Byte) (low band high : F32) : Num F32 := do
  let y := f0
  let y ← if tapLow flags then fadd y low else pure y
  let y ← if tapBand flags then fadd y band else pure y
  let y ← if tapHigh flags then fadd y high else pure y
  let y ← if tapNegBand flags then fsub y band else pure y
  if tapNegHigh flags then fsub y high else pure y

/-- One sample of the two integrators (R502): the new low, band and high. `high` uses the new low and
the old band, `band` the new high. -/
def filterNext (freq2 res x low0 band0 : F32) : Num (F32 × F32 × F32) := do
  let low ← fadd low0 (← fmul freq2 band0)
  let high ← fsub (← fsub x low) (← fmul res band0)
  let band ← fadd band0 (← fmul freq2 high)
  return (low, band, high)

/-- One channel of `filter` (R502). -/
def filterChannel (flags : Byte) (freq2 res : F32) (i : Nat) : M Unit := do
  let x ← top i
  let low0 ← ownState (2 * i)
  let band0 ← ownState (2 * i + 1)
  let next ← num (filterNext freq2 res x low0 band0)
  setOwnState (2 * i) next.1
  setOwnState (2 * i + 1) next.2.1
  let y ← num (filterTaps flags next.1 next.2.1 next.2.2)
  setTop i y

/-- `filter` (R502) -/
def execFilter (stereo : Bool) (frequency resonance flags : Byte) (s : State) :
    Host.Outcome State Fault Refusal :=
  runUnit [frequency, resonance] 1
    (do
      need (ch stereo)
      let f ← param 0
      let freq2 ← num (fmul f f)
      let res ← param 1
      forChannels stereo fun i => filterChannel flags freq2 res i) s

/-- The signal power the compressor follows: `|x|²`, summed over both channels in stereo (R503). -/
def signalPower (stereo : Bool) (left right : F32) : Num F32 := do
  let l2 ← fmul left left
  if stereo then fadd l2 (← fmul right right) else pure l2

/-- The compressor's one-pole envelope: attack while rising, release otherwise (R503).
DEDUCED (log entry 27): with `alpha = 1` the sum still rounds, as the pseudocode has it. -/
def compressorLevel (attack release x2 level : F32) : Num F32 := do
  let alpha ← nonLinearMap (if flt level x2 then attack else release)
  fadd level (← fmul alpha (← fsub x2 level))

/-- The compressor's gain: the threshold is tested on the updated level (R503). -/
def compressorGain (invgain threshold ratio level : F32) : Num F32 := do
  let t2 ← fmul threshold threshold
  let g ← if flt t2 level then do
      pure (powF (← fdiv t2 level) (← fdiv ratio f2))
    else pure f1
  fdiv g invgain

/-- `compressor` (R503) -/
def execCompressor (stereo : Bool) (attack release invgain threshold ratio : Byte) (s : State) :
    Host.Outcome State Fault Refusal :=
  runUnit [attack, release, invgain, threshold, ratio] 0
    (do
      need (ch stereo)
      let t ← readAll
      let left ← top 0
      let right ← top 1
      let x2 ← num (signalPower stereo left right)
      let level0 ← ownState 0
      let level ← num (compressorLevel (readParam t 0) (readParam t 1) x2 level0)
      setOwnState 0 level
      let g ← num (compressorGain (readParam t 2) (readParam t 3) (readParam t 4) level)
      pushTwice stereo g) s

end Sys2Proof.Machine
end

