-- ==== Sys2Proof/Machine/Oscillator.lean ====
section
/-! DEFINITION. The oscillator (48_oscillator.md R560 to R571).
-/
namespace Sys2Proof.Machine

/-- `Omega(detune)` (R562): the phase increment of one partial. -/
def oscOmega (lfo : Bool) (transpose detune : F32) (note : Byte) : Num F32 := do
  let pitch ← fdiv (← fadd (← fmul f64 (← signedParam transpose)) detune) f12
  let pitch ← if lfo then pure pitch else do fadd pitch (← fdiv (ofInt note.toNat) f12)
  fmul (exp2F pitch) (if lfo then cLfo else cAudio)

/-- The accumulator after one sample: `sv + omega`, less the cycles it passed (R563). DEDUCED (log entry
25): the pseudocode, which removes every whole cycle, not the one cycle per step that R563 speaks of
beside it. -/
def accumulated (sv0 omega : F32) : Num F32 := do
  let sv ← fadd sv0 omega
  fsub sv (← fsub (← ffloor (← fadd sv f1)) f1)

/-- The working phase, the fractional part of `sv + phaseParam` (R564). -/
def workingPhase (sv phaseParam : F32) : Num F32 := do
  let phase ← fadd sv phaseParam
  fsub phase (← ffloor phase)

/-- The amplitudes of the waveforms that need no state (R565, R566, R567); the Gate has its own
function, and with no waveform bit set the amplitude is 0. -/
def waveAmp (wave : Waveform) (color phase : F32) : Num F32 :=
  match wave with
  | .sine =>
    if flt phase color then do return sinF (← fdiv (← fmul twoPi phase) color) else pure f0
  | .trisaw =>
    if fle color phase then do
      fsub (← fmul (← fdiv (← fsub f1 phase) (← fsub f1 color)) f2) f1
    else do fsub (← fmul (← fdiv phase color) f2) f1
  | .pulse => pure (if flt phase color then f1 else fNeg1)
  | .gate => pure f0
  | .none => pure f0

/-- The gate bit of a step, as 0.0 or 1.0 (R568). -/
def gateBit (gateBits : Half) (step : Int) : F32 :=
  if gateBits.getLsbD (step % 16).toNat then f1 else f0

/-- The Gate amplitude (R568): the step's bit through the smoother in `state[4 + i]`. -/
def gateAmp (gateBits : Half) (phase : F32) (i : Nat) : M F32 := do
  let shifted ← num do fadd (← fmul phase f16) fHalf
  let step ← truncI shifted
  let a := gateBit gateBits step
  let old ← ownState (4 + i)
  let y ← num do fadd a (← fmul dcPole (← fsub old a))
  setOwnState (4 + i) y
  return y

/-- `Wave(wave, phase, i)` (R565 to R568). -/
def oscWave (wave : Waveform) (color : F32) (gateBits : Half) (phase : F32) (i : Nat) : M F32 :=
  if wave = .gate then gateAmp gateBits phase i else num (waveAmp wave color phase)

/-- `Mix(output, wave, amp)` (R569): only the Gate skips the waveshaper. -/
def oscMix (wave : Waveform) (shape gain output amp : F32) : Num F32 := do
  if wave = .gate then fadd output (← fmul amp gain)
  else fadd output (← fmul (← waveshape amp shape) gain)

/-- The partials `j`, `j + 1`, … of channel `i`, `n` of them (R560); the result is the channel's output.
The parameters are read from `params`, which no partial changes. -/
def oscPartials (flags : Byte) (gateBits : Half) (i : Nat) : Nat → Nat → F32 → F32 → F32 → M F32
  | 0, _, _, _, output => pure output
  | n + 1, j, detune, phaseParam, output => do
    let t ← readAll
    let omega ← num (oscOmega (lfoFlag flags) (readParam t 0) detune (currentVoice t).note)
    let sv0 ← ownState (i + 2 * j)
    let sv ← num (accumulated sv0 omega)
    setOwnState (i + 2 * j) sv
    let phase ← num (workingPhase sv phaseParam)
    let amp ← oscWave (selectWave flags) (readParam t 3) gateBits phase i
    let output' ← num (oscMix (selectWave flags) (readParam t 4) (readParam t 5) output amp)
    let phaseParam' ← num (fadd phaseParam twelfth)
    let detune' ← num (fdiv (fneg detune) f2)
    oscPartials flags gateBits i n (j + 1) detune' phaseParam' output'

/-- One channel: the partials from `detune` and `params[2]`, then the push (R560, R570). -/
def oscChannel (flags : Byte) (gateBits : Half) (detune : F32) (i : Nat) : M Unit := do
  let phaseParam ← param 2
  let output ← oscPartials flags gateBits i (unisonOf flags + 1) 0 detune phaseParam f0
  push output

/-- `oscillator` (R560). Channel 0 is pushed first; channel 1 has the negated detune (R570). -/
def execOscillator (stereo : Bool) (transpose detune phase color shape gain flags : Byte)
    (gate : Option Half) (s : State) : Host.Outcome State Fault Refusal :=
  runUnit [transpose, detune, phase, color, shape, gain] (if gate.isSome then 3 else 1)
    (do
      let p ← param 1
      let detuneStereo ← num (signedParam p)
      forChannels stereo fun i =>
        oscChannel flags (gate.getD 0) (if i = 0 then detuneStereo else fneg detuneStereo) i) s

end Sys2Proof.Machine
end

