-- ==== Sys2Proof/Machine/Routing.lean ====
section
/-! DEFINITION. The routing units: send, speed and sync (46_routing.md R520 to R526).
-/
namespace Sys2Proof.Machine

/-- Resolves a send address in the executing voice, or raises the fault of R520. -/
def sendTarget (address : Half) (stereo : Bool) : M (Fin 32 × Nat × Nat) :=
  fun s => match resolveSend address stereo s.vi with
    | .ok t => .ok t s
    | .error e => .error e s

/-- `send` (R521). DEDUCED (log entries 24, 27): the amount is `p * 2 - 1` for every byte, and an infinite
signal times 0 is NaN. -/
def execSend (stereo : Bool) (amount : Byte) (address : Half) (s : State) :
    Host.Outcome State Fault Refusal :=
  runUnit [amount] 2
    (do
      need (ch stereo)
      let target ← sendTarget address stereo
      let p ← param 0
      let amt ← num (signedParam p)
      forChannels stereo fun i => do
        let x ← top i
        portAdd target.1 target.2.1 (target.2.2 + i) x amt
      if sendPops address then drop (ch stereo) else pure ()) s

/-- `acc <- U.state[0] + (Exp2F(K_SPEED * x) - 1)` (R524). DEDUCED (log entry 28): a NaN control signal
makes `acc` NaN, as R524 says, whatever `P_EXP2` gives at a NaN, which R16 leaves open. -/
def speedAcc (carried x : F32) : Num F32 := do
  let exponent ← fmul kSpeed x
  fadd carried (← fsub (if isNaN x then exponent else exp2F exponent) f1)

/-- `speed` (R524); the stereo bit is ignored (R312). -/
def execSpeed (_stereo : Bool) (s : State) : Host.Outcome State Fault Refusal :=
  runUnit [] 0
    (do
      need 1
      let x ← top 0
      drop 1
      let carried ← ownState 0
      let acc ← num (speedAcc carried x)
      let shifted ← num (fadd acc f1_5)
      let k ← truncI shifted
      change fun t => { t with time := t.time + (k - 1) }
      let rest ← num (fsub acc (ofInt (k - 1)))
      setOwnState 0 rest) s

/-- `sync` (R526); the stereo bit is ignored (R312). -/
def execSync (_stereo : Bool) (s : State) : Host.Outcome State Fault Refusal :=
  runUnit [] 0
    (do
      need 1
      let t ← readAll
      let x ← top 0
      if syncDue t then syncWrite x else pure ()) s

end Sys2Proof.Machine
end

