-- ==== Sys2Proof/Machine/Sinks.lean ====
section
/-! DEFINITION. The sinks (43_sinks.md R460 to R462).
-/
namespace Sys2Proof.Machine

/-- `out` (R460) -/
def execOut (stereo : Bool) (gain : Byte) (s : State) : Host.Outcome State Fault Refusal :=
  runUnit [gain] 0
    (do
      let g ← param 0
      need (ch stereo)
      forChannels stereo fun i => do
        let x ← top i
        busAdd i g x
      drop (ch stereo)) s

/-- `outaux` (R461): the adds of the channels 0 (and 1), then those of 2 (and 3). -/
def execOutaux (stereo : Bool) (outgain auxgain : Byte) (s : State) :
    Host.Outcome State Fault Refusal :=
  runUnit [outgain, auxgain] 0
    (do
      let go ← param 0
      let ga ← param 1
      need (ch stereo)
      forChannels stereo fun i => do
        let x ← top i
        busAdd i go x
      forChannels stereo fun i => do
        let x ← top i
        busAdd (2 + i) ga x
      drop (ch stereo)) s

/-- `aux` (R462): the depth is checked before the channel. -/
def execAux (stereo : Bool) (gain channel : Byte) (s : State) :
    Host.Outcome State Fault Refusal :=
  runUnit [gain] 1
    (do
      need (ch stereo)
      raiseIf (channelBad channel stereo) (.renderFault .channelRange)
      let g ← param 0
      forChannels stereo fun i => do
        let x ← top i
        busAdd (channel.toNat + i) g x
      drop (ch stereo)) s

end Sys2Proof.Machine
end

