-- ==== Sys2Proof/Machine/Sources.lean ====
section
/-! DEFINITION. The signal sources but for the oscillator (42_sources.md R440 to R444).
-/
namespace Sys2Proof.Machine

/-- `ToF32(note) / 64 - 1` (R441). -/
def noteSignal (note : Byte) : Num F32 := do
  fsub (← fdiv (ofInt note.toNat) f64) f1

/-- One draw of `noise`: `push(waveshape(rand(), shape) * gain)` (R442). -/
def noiseChannel : M Unit := do
  let r ← rand
  let shape ← param 0
  let g ← param 1
  let y ← num do fmul (← waveshape r shape) g
  push y

/-- `loadval` (R440). DEDUCED (log entry 24): byte 255 gives 2.984375, as the formula and V-SRC-1 say,
not the 0.9921875 of R440's corner case. -/
def execLoadval (stereo : Bool) (value : Byte) (s : State) : Host.Outcome State Fault Refusal :=
  runUnit [value] 0
    (do
      let p ← param 0
      let v ← num (signedParam p)
      pushTwice stereo v) s

/-- `loadnote` (R441) -/
def execLoadnote (stereo : Bool) (s : State) : Host.Outcome State Fault Refusal :=
  runUnit [] 0
    (do
      let t ← readAll
      let v ← num (noteSignal (currentVoice t).note)
      pushTwice stereo v) s

/-- `noise` (R442): the first draw is pushed first. -/
def execNoise (stereo : Bool) (shape gain : Byte) (s : State) : Host.Outcome State Fault Refusal :=
  runUnit [shape, gain] 0 (forChannels stereo fun _ => noiseChannel) s

/-- `receive` (R443): both ports are read and cleared before the pushes, port 1 is pushed first. -/
def execReceive (stereo : Bool) (s : State) : Host.Outcome State Fault Refusal :=
  runUnit [] 0
    (if stereo then do
      let r ← ownPort 1
      let t ← ownPort 0
      setOwnPort 0 f0
      setOwnPort 1 f0
      push r
      push t
    else do
      let t ← ownPort 0
      setOwnPort 0 f0
      push t) s

/-- `in` (R444): both channels are read and cleared before the pushes, `channel + 1` is pushed first. -/
def execInput (stereo : Bool) (channel : Byte) (s : State) : Host.Outcome State Fault Refusal :=
  runUnit [] 1
    (do
      raiseIf (channelBad channel stereo) (.renderFault .channelRange)
      let t ← readAll
      if stereo then do
        change fun u => writeOutput u channel.toNat f0
        change fun u => writeOutput u (channel.toNat + 1) f0
        push (readOutput t (channel.toNat + 1))
        push (readOutput t channel.toNat)
      else do
        change fun u => writeOutput u channel.toNat f0
        push (readOutput t channel.toNat)) s

end Sys2Proof.Machine
end

