-- ==== Sys2Proof/Machine/Stack.lean ====
section
/-! DEFINITION. The stack primitives (41_stack.md R420 to R426).
-/
namespace Sys2Proof.Machine

/-- `stk[l-1-i] <- stk[l-1-i] op stk[l-1-j]` (R420, R422). -/
def combineInto (op : F32 → F32 → Num F32) (i j : Nat) : M Unit := do
  let a ← top i
  let b ← top j
  let y ← num (op a b)
  setTop i y

/-- The shape of `add` and `mul`: the top operand(s) are replaced, nothing is popped. -/
def combineTop (op : F32 → F32 → Num F32) (stereo : Bool) : M Unit :=
  if stereo then do
    need 4
    combineInto op 0 2
    combineInto op 1 3
  else do
    need 2
    combineInto op 0 1

/-- The shape of `addp` and `mulp`: the next operand(s) are replaced, the top one(s) popped. -/
def combineNext (op : F32 → F32 → Num F32) (stereo : Bool) : M Unit :=
  if stereo then do
    need 4
    combineInto op 2 0
    combineInto op 3 1
    drop 2
  else do
    need 2
    combineInto op 1 0
    drop 1

/-- Swaps two elements bit for bit (R424). -/
def swap (i j : Nat) : M Unit := do
  let a ← top i
  let b ← top j
  setTop i b
  setTop j a

/-- `add` (R420) -/
def execAdd (stereo : Bool) (s : State) : Host.Outcome State Fault Refusal :=
  runUnit [] 0 (combineTop fadd stereo) s

/-- `addp` (R421) -/
def execAddp (stereo : Bool) (s : State) : Host.Outcome State Fault Refusal :=
  runUnit [] 0 (combineNext fadd stereo) s

/-- `mul` (R422) -/
def execMul (stereo : Bool) (s : State) : Host.Outcome State Fault Refusal :=
  runUnit [] 0 (combineTop fmul stereo) s

/-- `mulp` (R423) -/
def execMulp (stereo : Bool) (s : State) : Host.Outcome State Fault Refusal :=
  runUnit [] 0 (combineNext fmul stereo) s

/-- `xch` (R424) -/
def execXch (stereo : Bool) (s : State) : Host.Outcome State Fault Refusal :=
  runUnit [] 0
    (if stereo then do
      need 4
      swap 0 2
      swap 1 3
    else do
      need 2
      swap 0 1) s

/-- `push` (R425). In the stereo form the deeper element is pushed first, so an overflow at the second
push leaves the first one written. -/
def execPush (stereo : Bool) (s : State) : Host.Outcome State Fault Refusal :=
  runUnit [] 0
    (if stereo then do
      need 2
      let r ← top 1
      let t ← top 0
      push r
      push t
    else do
      need 1
      let a ← top 0
      push a) s

/-- `pop` (R426) -/
def execPop (stereo : Bool) (s : State) : Host.Outcome State Fault Refusal :=
  runUnit [] 0
    (do
      need (ch stereo)
      drop (ch stereo)) s

end Sys2Proof.Machine
end

