-- ==== Sys2Proof/Machine/Transforms.lean ====
section
/-! DEFINITION. The transforms (44_transforms.md R480 to R485).
-/
namespace Sys2Proof.Machine

/-- `clip` of one value (R482): a NaN fails both comparisons and passes through. -/
def clipValue (x : F32) : F32 := if flt f1 x then f1 else if flt x fNeg1 then fNeg1 else x

/-- `crush` of one value, `RoundF(x / q) * q` (R483). -/
def crushValue (tie : RoundTie) (q x : F32) : Num F32 := do
  fmul (roundF tie (← fdiv x q)) q

/-- `gain` (R480) -/
def execGain (stereo : Bool) (gain : Byte) (s : State) : Host.Outcome State Fault Refusal :=
  runUnit [gain] 0
    (do
      let g ← param 0
      mapChannels stereo fun x => fmul x g) s

/-- `invgain` (R481) -/
def execInvgain (stereo : Bool) (invgain : Byte) (s : State) : Host.Outcome State Fault Refusal :=
  runUnit [invgain] 0
    (do
      let g ← param 0
      mapChannels stereo fun x => fdiv x g) s

/-- `clip` (R482) -/
def execClip (stereo : Bool) (s : State) : Host.Outcome State Fault Refusal :=
  runUnit [] 0 (mapChannels stereo fun x => pure (clipValue x)) s

/-- `crush` (R483) -/
def execCrush (stereo : Bool) (resolution : Byte) (s : State) :
    Host.Outcome State Fault Refusal :=
  runUnit [resolution] 0
    (do
      let q ← param 0
      let t ← readAll
      mapChannels stereo fun x => crushValue t.cfg.roundTie q x) s

/-- `distort` (R484). DEDUCED (log entry 27): an infinite signal gives NaN, as the formula has it. -/
def execDistort (stereo : Bool) (drive : Byte) (s : State) : Host.Outcome State Fault Refusal :=
  runUnit [drive] 0
    (do
      let a ← param 0
      mapChannels stereo fun x => waveshape x a) s

/-- `pan` (R485): the mono form duplicates the top before both are scaled. DEDUCED (log
entry 27): an infinite signal times 0 is NaN. -/
def execPan (stereo : Bool) (panning : Byte) (s : State) : Host.Outcome State Fault Refusal :=
  runUnit [panning] 0
    (do
      let p ← param 0
      if stereo then pure () else do
        need 1
        let x ← top 0
        push x
      need 2
      let l ← top 0
      let l' ← num (fmul l p)
      setTop 0 l'
      let r ← top 1
      let r' ← num do fmul r (← fsub f1 p)
      setTop 1 r') s

end Sys2Proof.Machine
end

