-- ==== Sys2Proof/Machine/Dispatch.lean ====
section
/-! DEFINITION. The meaning of every instruction, one arm per constructor (30_encoding.md R302).
-/
namespace Sys2Proof.Machine

def exec (i : Instr) (s : State) : Host.Outcome State Fault Refusal :=
  match i with
  | .advance b => Sys2Proof.Machine.execAdvance b s
  | .add b => Sys2Proof.Machine.execAdd b s
  | .addp b => Sys2Proof.Machine.execAddp b s
  | .pop b => Sys2Proof.Machine.execPop b s
  | .loadnote b => Sys2Proof.Machine.execLoadnote b s
  | .mul b => Sys2Proof.Machine.execMul b s
  | .mulp b => Sys2Proof.Machine.execMulp b s
  | .push b => Sys2Proof.Machine.execPush b s
  | .xch b => Sys2Proof.Machine.execXch b s
  | .distort b t0 => Sys2Proof.Machine.execDistort b t0 s
  | .hold b t0 => Sys2Proof.Machine.execHold b t0 s
  | .crush b t0 => Sys2Proof.Machine.execCrush b t0 s
  | .gain b t0 => Sys2Proof.Machine.execGain b t0 s
  | .invgain b t0 => Sys2Proof.Machine.execInvgain b t0 s
  | .filter b t0 t1 x0 => Sys2Proof.Machine.execFilter b t0 t1 x0 s
  | .clip b => Sys2Proof.Machine.execClip b s
  | .pan b t0 => Sys2Proof.Machine.execPan b t0 s
  | .delay b t0 t1 t2 t3 t4 x0 x1 => Sys2Proof.Machine.execDelay b t0 t1 t2 t3 t4 x0 x1 s
  | .compressor b t0 t1 t2 t3 t4 => Sys2Proof.Machine.execCompressor b t0 t1 t2 t3 t4 s
  | .speed b => Sys2Proof.Machine.execSpeed b s
  | .out b t0 => Sys2Proof.Machine.execOut b t0 s
  | .outaux b t0 t1 => Sys2Proof.Machine.execOutaux b t0 t1 s
  | .aux b t0 x0 => Sys2Proof.Machine.execAux b t0 x0 s
  | .send b t0 a => Sys2Proof.Machine.execSend b t0 a s
  | .envelope b t0 t1 t2 t3 t4 => Sys2Proof.Machine.execEnvelope b t0 t1 t2 t3 t4 s
  | .noise b t0 t1 => Sys2Proof.Machine.execNoise b t0 t1 s
  | .oscillator b t0 t1 t2 t3 t4 t5 x0 g => Sys2Proof.Machine.execOscillator b t0 t1 t2 t3 t4 t5 x0 g s
  | .loadval b t0 => Sys2Proof.Machine.execLoadval b t0 s
  | .receive b => Sys2Proof.Machine.execReceive b s
  | .input b x0 => Sys2Proof.Machine.execInput b x0 s
  | .sync b => Sys2Proof.Machine.execSync b s

end Sys2Proof.Machine
end

