-- ==== Sys2Proof/Machine/HostPort.lean ====
section
/-! DEFINITION. The host command port (49_host.md R600 to R641): install validation, the delay-line count,
and the five host commands. Each is one atomic transaction; Render's sample loop is in
Machine/Render.lean.
-/
namespace Sys2Proof.Machine

/-- Every instrument segment, from after one `advance` to the next or to the end, has at most 63
commands that are no `advance` (R602); `k` is the count so far in the current segment. -/
def segmentsFit : Nat → List Byte → Bool
  | _, [] => true
  | k, c :: cs =>
    if opcodeOf c = 0 then segmentsFit 0 cs else decide (k < 63) && segmentsFit (k + 1) cs

/-- Install validation (R602): the first check that fails, in the order of the table. -/
def validate (p : BytePatch) : Option LoadError :=
  if Config.maxCommands < p.commands.length then some .commandsTooLong
  else if Config.maxValues < p.values.length then some .valuesTooLong
  else if Config.maxVoices < p.numVoices then some .tooManyVoices
  else if p.commands.any fun c => decide (30 < opcodeOf c) then some .unknownOpcode
  else if !segmentsFit 0 p.commands then some .tooManyUnits
  else none

/-- Value bytes of one command in the walk of R603, and the lines it uses; none where the walk ends
because the value stream is exhausted before a flags or count byte. -/
def walkCommand (values : List Byte) (c : Byte) (vc : Nat) : Option (Nat × Nat) :=
  let op := opcodeOf c
  let k := transformCount op + extraCount op
  if op = 26 then
    values[vc + 6]?.map fun b => (if gateFlag b then k + 2 else k, 0)
  else if op = 17 then
    values[vc + 6]?.map fun b => (k, ch (stereoOf c) * delayLineCount b)
  else some (k, 0)

/-- The walk of R603 from the command list `cs` to the voice's `advance`: the lines counted, and where
the next command and value stand, or none where the walk ends. -/
def walkVoice (values : List Byte) : List Byte → Nat → Nat → Nat × Option (List Byte × Nat)
  | [], _, total => (total, none)
  | c :: cs, vc, total =>
    if opcodeOf c = 0 then (total, some (cs, vc))
    else
      match walkCommand values c vc with
      | none => (total, none)
      | some (k, n) =>
        if values.length < vc + k then (total + n, none)
        else walkVoice values cs (vc + k) (total + n)

/-- The walk of R603 over `vr` remaining voices; `cs`, `vc` are the cursors and `csI`, `vcI` the saved
instrument start. -/
def walkVoices (p : BytePatch) : Nat → List Byte → Nat → List Byte → Nat → Nat → Nat
  | 0, _, _, _, _, total => total
  | vr + 1, cs, vc, csI, vcI, total =>
    match walkVoice p.values cs vc total with
    | (total', none) => total'
    | (total', some (cs', vc')) =>
      if p.polyphonyBitmask.getLsbD vr then walkVoices p vr csI vcI csI vcI total'
      else walkVoices p vr cs' vc' cs' vc' total'

/-- `RequiredLines(P)` (R603): the delay lines one sample step consumes. -/
def requiredLines (p : BytePatch) : Nat :=
  walkVoices p p.numVoices p.commands 0 p.commands 0 0

/-- The vector of delay lines grown to at least `n` lines with zero lines; it never shrinks (R620). -/
def growLines (lines : List DelayLine) (n : Nat) : List DelayLine :=
  lines ++ List.replicate (n - lines.length) zeroLine

/-- The state a successful `Create(P)` leaves (R601, R800). What R800 marks "n/o" keeps its value (log
entry 6), and so do the model's own fields. -/
def createCore (p : BytePatch) (s : State) : State :=
  recover
    { s with
      patch := p
      randSeed := 1
      globalTime := 0
      outputs := Vector.replicate 8 f0
      voices := Vector.replicate 32 zeroVoice
      lines := List.replicate (requiredLines p) zeroLine
      stk := [] }

/-- `Create(P)` (R601): a patch that fails validation creates no core and changes nothing. -/
def hostCreate (p : BytePatch) (s : State) : State :=
  match validate p with
  | some e => { s with result := some (.loaded (some e)) }
  | none => { createCore p s with result := some (.loaded none) }

/-- Sets the record of voice `v` when `v` is in 0..31, and does nothing otherwise (R610, R611). -/
def setVoice (v : Int) (f : Voice → Voice) (s : State) : State :=
  if h : 0 ≤ v ∧ v < 32 then
    { s with voices := s.voices.set v.toNat (f (s.voices[v.toNat]'(by omega))) (by omega) }
  else s

/-- `Trigger(v, note)` (R610) -/
def hostTrigger (v : Int) (note : Byte) (s : State) : State :=
  { setVoice v (fun _ => { note := note, release := false, units := [] }) s with
    result := some .silent }

/-- `Release(v)` (R611) -/
def hostRelease (v : Int) (s : State) : State :=
  { setVoice v (fun r => { r with release := true }) s with result := some .silent }

/-- `Update(P)` (R620) once `P` passed validation. -/
def updateCore (p : BytePatch) (s : State) : State :=
  recover
    { s with
      voices :=
        if p.commands = s.patch.commands then s.voices
        else s.voices.map fun r => { r with units := [] }
      patch := p
      lines := growLines s.lines (requiredLines p) }

/-- `Update(P)` (R620): a patch that fails validation changes nothing. -/
def hostUpdate (p : BytePatch) (s : State) : State :=
  match validate p with
  | some e => { s with result := some (.loaded (some e)) }
  | none => { updateCore p s with result := some (.loaded none) }

/-- The stack a Render call starts with (R114): the four scratch elements. -/
def scratchStack : List F32 := List.replicate Config.scratchDepth f0

/-- The start of `Render` (R630): refused on a poisoned core (R711), otherwise the Render registers are
set and the sample loop begins. -/
def hostRender (buffer syncBuffer : List F32) (maxtime : Int) (s : State) : State :=
  if s.poisoned then
    { s with
      buffer := buffer
      syncBuffer := syncBuffer
      result := some (.rendered 0 0 0 .poisoned) }
  else
    { s with
      stk := scratchStack
      time := 0
      maxtime := maxtime
      samples := 0
      syncs := 0
      bufPos := 0
      syncPos := 0
      buffer := buffer
      syncBuffer := syncBuffer
      result := none
      phase := .loopTest }

/-- One host command (R600). -/
def runHostCommand (c : HostCommand) (s : State) : State :=
  match c with
  | .create p => hostCreate p s
  | .trigger v note => hostTrigger v note s
  | .release v => hostRelease v s
  | .update p => hostUpdate p s
  | .render buffer syncBuffer maxtime => hostRender buffer syncBuffer maxtime s

/-- An idle core runs the oldest host command, or does nothing (R640, R641). -/
def idleStep (s : State) : State :=
  match s.hostQueue with
  | [] => s
  | c :: cs => runHostCommand c { s with hostQueue := cs }

end Sys2Proof.Machine
end

