-- ==== Sys2Proof/Machine/Render.lean ====
section
/-! DEFINITION. The sample loop around the commands (40_dispatch.md R400, R401, R410) and the fetch
(R402, R403).
-/
namespace Sys2Proof.Machine

/-- The loop conditions of R400: time is left and the output buffer has room for a stereo sample. -/
def loopGoesOn (s : State) : Bool := decide (s.time < s.maxtime) && decide (s.bufPos + 2 ≤ bufCap s)

/-- The registers a sample step resets before anything else (R400, R401). -/
def resetSequencer (s : State) : State :=
  { s with
    stepStartTime := s.time
    stepStartSyncs := s.syncs
    vr := s.patch.numVoices
    vi := 0
    ui := 0
    cc := 0
    vc := 0
    cci := 0
    vci := 0
    dl := 0
    phase := .sampleStep }

/-- The sync record of a step whose cadence is due (R401). -/
def syncRecord : M Unit := do
  let s ← readAll
  if syncDue s then do
    syncWrite (ofInt s.time)
    change fun t => { t with syncs := t.syncs + 1 }
  else pure ()

/-- The end of a computation that belongs to no command: it goes on, or its fault is taken (R710). -/
def finishOutside : EStateM.Result RenderError State Unit → State
  | .ok _ t => t
  | .error e t => faultEntry e none t

/-- The return of a Render call that did not fault (R630). -/
def renderReturn (s : State) : State :=
  { s with
    phase := .idle
    result := some (.rendered s.samples s.syncs s.time .ok) }

/-- The test of the sample loop (R400), then the start of a sample step (R401) or the return. -/
def loopStep (s : State) : State :=
  if loopGoesOn s then finishOutside (syncRecord (resetSequencer s)) else renderReturn s

/-- Emits channels 0 and 1, clears them and advances the clocks (R410). -/
def emitSample (s : State) : State :=
  { s with
    buffer := (s.buffer.set s.bufPos (readOutput s 0)).set (s.bufPos + 1) (readOutput s 1)
    bufPos := s.bufPos + 2
    outputs := (s.outputs.setIfInBounds 0 f0).setIfInBounds 1 f0
    samples := s.samples + 1
    time := s.time + 1
    globalTime := s.globalTime + 1
    phase := .loopTest }

/-- `EndOfStep` (R410): the depth check comes first. -/
def endOfStep (s : State) : State :=
  if s.stk.length < 4 then faultEntry .stackUnderflow none s
  else if 4 < s.stk.length then faultEntry .stackNotEmpty none s
  else emitSample s

/-- The value bytes from the value cursor on (R301). -/
def valuesAhead (s : State) : List Byte := s.patch.values.drop s.vc

/-- The fetch of R402: the command byte was read and the command cursor moved past it. -/
def fetched (s : State) : State := { s with cc := s.cc + 1 }

/-- What `ExecuteOne` does when no instruction can be decoded at the cursors: the command stream ended
(R402), the opcode is illegal (R403, R704), or the value stream ended inside the operand group. -/
def undecoded (d : Decoded) (s : State) : State :=
  match d with
  | .instr _ => s
  | .illegal c => faultEntry (.invalidOpcode c) (commandSite s) s
  | .ended op => runTruncated op (valuesAhead s) s

/-- The fault of a fetch beyond the command stream (R402, R703). -/
def commandStreamEnd (s : State) : State :=
  faultEntry (.renderFault .commandStreamEnded) (some s.patch.commands.length) s

end Sys2Proof.Machine
end

