-- ==== Sys2Proof/Machine/Step.lean ====
section
/-! DEFINITION. One step of the core: a host command, the test of the sample loop, one command of a
sample step, or the end of a sample step; and the placing of one instruction where the next step
fetches.
-/
namespace Sys2Proof.Machine

/-- `ExecuteOne` (R402): fetch, decode, run. -/
def executeOne (s : State) : Host.Outcome State Fault Refusal :=
  match s.patch.commands[s.cc]? with
  | none => .next (commandStreamEnd s)
  | some c =>
    match decode c (valuesAhead s) with
    | .instr i => exec i (fetched s)
    | d => .next (undecoded d (fetched s))

/-- One step. -/
def step (s : State) : Host.Outcome State Fault Refusal :=
  match s.phase with
  | .idle => .next (idleStep s)
  | .loopTest => .next (loopStep s)
  | .sampleStep => if s.vr = 0 then .next (endOfStep s) else executeOne s

/-- `s` inside a sample step whose next command is the instruction with bits `w` (log entry 7). The core
does not fetch in an idle state: this installs the one-command patch for one voice and makes the state
that of a Render call, with room for two words in either buffer, before its first fetch. -/
def State.withFetchWord (s : State) (nbits w : Nat) : State :=
  { s with
    patch :=
      { s.patch with
        commands := [tableByte nbits w 0]
        values := tableOperands nbits w
        numVoices := 1 }
    stk := scratchStack
    cc := 0
    vc := 0
    cci := 0
    vci := 0
    vi := 0
    vr := 1
    ui := 0
    dl := 0
    buffer := [f0, f0]
    syncBuffer := [f0, f0]
    bufPos := 0
    syncPos := 0
    phase := .sampleStep }

end Sys2Proof.Machine
end

