-- ==== Sys2Proof/Safety.lean ====
section
/-! DEFINITION. What a well-formed state of the core is, and the terms in which the statements speak of a
run: the state a handler starts from, the stack depth a form reads, the length of an operand group,
the work a sample step has left, and the values of the two units that loop over lines or partials,
written out from their rules without the handlers.
-/
namespace Sys2Proof.Machine

/-- The state in which the handler of `i` starts: its transformables are materialised and its extra
bytes read (R406, R303). -/
def afterOperands (i : Instr) (s : State) : State :=
  operandsRead (i.operands.take (transformCount (opcodeOf i.command)))
    (i.operands.length - transformCount (opcodeOf i.command)) s

/-- The stack elements a form reads before it writes anything, the argument of its `need` (R702). -/
def depthRead : Instr → Nat
  | .add b | .addp b | .mul b | .mulp b | .xch b => 2 * ch b
  | .pop b | .push b | .distort b _ | .hold b _ | .crush b _ | .gain b _ | .invgain b _
  | .filter b _ _ _ | .clip b | .pan b _ | .delay b _ _ _ _ _ _ _ | .compressor b _ _ _ _ _
  | .out b _ | .outaux b _ _ | .aux b _ _ | .send b _ _ => ch b
  | .speed _ | .sync _ => 1
  | .advance _ | .loadnote _ | .envelope _ _ _ _ _ _ | .noise _ _ _
  | .oscillator _ _ _ _ _ _ _ _ _ | .loadval _ _ | .receive _ | .input _ _ => 0

/-- The length of an operand group (R313): fixed by the opcode, but for the oscillator, which has two
more bytes when its flags byte has bit 2 set. -/
def groupLength (op : Nat) (vs : List Byte) : Nat :=
  transformCount op + extraCount op + if op = 26 ∧ (vs[6]?).any gateFlag then 2 else 0

/-- The delay lines the rest of the sample step would take by the walk of R603, from the cursors as
they stand. -/
def linesAhead (s : State) : Nat :=
  walkVoices s.patch s.vr (s.patch.commands.drop s.cc) s.vc (s.patch.commands.drop s.cci) s.vci 0

/-- A bound on the commands the sample step has left (R411). Every command lowers it. -/
def workLeft (s : State) : Nat :=
  s.vr * (s.patch.commands.length + 1) + (s.patch.commands.length - s.cc)

/-! ### The values of `delay` (47_delay.md) -/

/-- One `delay` command: `m` is the state after its operands, `n` the lines per channel, `index` the
first DelayTimes entry. Channel `i` has the lines number `i * n + k`, `k < n`, from the cursor on, and
the entries of the same numbers from `index` on (R541). -/
structure DelayCall where
  m : State
  n : Nat
  index : Nat
  pitched : Bool

/-- `pregain²` (R540). -/
def DelayCall.pg2 (c : DelayCall) : F32 := mulAt c.m.draws (readParam c.m 0) (readParam c.m 0)

/-- The operations that form one line's delay: the port term, and in pitched mode the scale (R542). -/
def DelayCall.lengthOps (c : DelayCall) : Nat := if c.pitched then 4 else 2

/-- The number of the first operation of channel `i`. A line has eight operations after those of its
delay, a channel four besides its lines. -/
def DelayCall.first (c : DelayCall) (i : Nat) : Nat :=
  c.m.draws + 1 + i * (4 + c.n * (c.lengthOps + 8))

/-- The number of the first operation of line `k` of channel `i`, or with `k = n` of its DC blocker. -/
def DelayCall.lineOp (c : DelayCall) (i k : Nat) : Nat := c.first i + 1 + k * (c.lengthOps + 8)

/-- Line `k` of channel `i` as the command finds it (R541). -/
def DelayCall.old (c : DelayCall) (i k : Nat) : DelayLine := readLine c.m (c.m.dl + (i * c.n + k))

/-- The delay in samples (R542): the table entry, in pitched mode over `Exp2F(note / 12)`. The term of
port 4 is +0.0, because materialisation has cleared the port. -/
def DelayCall.length (c : DelayCall) (i k : Nat) : F32 :=
  let entry := ofInt (c.m.patch.delayTimes.getD (c.index + (i * c.n + k)) 0).toNat
  if c.pitched then
    divAt (c.lineOp i k + 3) entry
      (exp2F (divAt (c.lineOp i k + 2) (ofInt (c.m.voices.get c.m.vi).note.toNat) f12))
  else entry

/-- The tap of line `k`, its delay, rounded, back from the ring position (R542). -/
def DelayCall.tap (c : DelayCall) (i k : Nat) : F32 :=
  Memory.read (c.old i k).buffer
    (((c.m.globalTime.toNat % 65536 : Nat) - roundInt c.m.cfg.roundTie (c.length i k)) % 65536).toNat

/-- The sum of channel `i` after `k` of its lines, from `dry * x` on (R540, R542). -/
def DelayCall.sum (c : DelayCall) (i : Nat) : Nat → F32
  | 0 => mulAt (c.first i) (readParam c.m 1) (c.m.stk.getD i f0)
  | k + 1 => addAt (c.lineOp i k + c.lengthOps) (c.sum i k) (c.tap i k)

/-- The new damping state of line `k` (R542). -/
def DelayCall.damped (c : DelayCall) (i k : Nat) : F32 :=
  let d := c.lineOp i k + c.lengthOps
  addAt (d + 4) (mulAt (d + 1) (readParam c.m 4) (c.old i k).dampState)
    (mulAt (d + 3) (subAt (d + 2) f1 (readParam c.m 4)) (c.tap i k))

/-- The word line `k` writes at the ring position (R542). -/
def DelayCall.word (c : DelayCall) (i k : Nat) : F32 :=
  let d := c.lineOp i k + c.lengthOps
  addAt (d + 7) (mulAt (d + 5) (readParam c.m 2) (c.damped i k))
    (mulAt (d + 6) c.pg2 (c.m.stk.getD i f0))

/-- The channel's output, its sum through the DC blocker of its last line (R543). -/
def DelayCall.output (c : DelayCall) (i : Nat) : F32 :=
  let d := c.lineOp i c.n
  let last := c.old i (c.n - 1)
  subAt (d + 2) (addAt (d + 1) (c.sum i c.n) (mulAt d dcPole last.dcFiltState)) last.dcIn

/-- Line `k` of channel `i` as the command leaves it; only the channel's last line changes its
DC-blocker state (R542, R543). -/
def DelayCall.new (c : DelayCall) (i k : Nat) : DelayLine :=
  { buffer := Memory.write (c.old i k).buffer (c.m.globalTime.toNat % 65536) (c.word i k)
    dampState := c.damped i k
    dcIn := if k + 1 = c.n then c.sum i c.n else (c.old i k).dcIn
    dcFiltState := if k + 1 = c.n then c.output i else (c.old i k).dcFiltState }

/-- The state when the first `j` lines of the command are done, with the channels whose lines are all
among them, and the next operation is line `j`'s first. -/
def DelayCall.after (c : DelayCall) (j : Nat) : State :=
  { c.m with
    lines := c.m.lines.mapIdx fun q l =>
      if c.m.dl ≤ q ∧ q < c.m.dl + j then c.new ((q - c.m.dl) / c.n) ((q - c.m.dl) % c.n) else l
    stk := (List.range (j / c.n)).map c.output ++ c.m.stk.drop (j / c.n)
    dl := c.m.dl + j
    draws := c.lineOp (j / c.n) (j % c.n) }

/-! ### The values of the oscillator (48_oscillator.md) -/

/-- Where the oscillator stands between two partials of a channel: the state, and the temporaries of
R560. -/
structure OscPoint where
  state : State
  detune : F32
  phaseParam : F32
  output : F32

/-- `Omega` (R562), six operations in LFO mode and eight outside it. -/
def OscPoint.omega (flags : Byte) (p : OscPoint) : F32 :=
  let d := p.state.draws
  let pitch := divAt (d + 4) (addAt (d + 3) (mulAt (d + 2) f64
    (subAt (d + 1) (mulAt d (readParam p.state 0) f2) f1)) p.detune) f12
  if flags.getLsbD 3 then mulAt (d + 5) (exp2F pitch) cLfo
  else mulAt (d + 7) (exp2F (addAt (d + 6) pitch
    (divAt (d + 5) (ofInt (p.state.voices.get p.state.vi).note.toNat) f12))) cAudio

/-- The number of the operation after those of `omega`. -/
def OscPoint.op (flags : Byte) (p : OscPoint) : Nat :=
  p.state.draws + if flags.getLsbD 3 then 6 else 8

/-- Floor of any value, with number `d` (R17). -/
def floorAt (d : Nat) (x : F32) : F32 := if isNaN x then Config.nan d else floorNumber x

/-- The accumulator of partial `j` of channel `i` after `omega` and the wrap, by the pseudocode of R563
(log entry 25). -/
def OscPoint.accumulator (flags : Byte) (i j : Nat) (p : OscPoint) : F32 :=
  let e := p.op flags
  let sv := addAt e (readState p.state p.state.vi p.state.ui (i + 2 * j)) (p.omega flags)
  subAt (e + 4) sv (subAt (e + 3) (floorAt (e + 2) (addAt (e + 1) sv f1)) f1)

/-- The working phase (R564). -/
def OscPoint.phase (flags : Byte) (i j : Nat) (p : OscPoint) : F32 :=
  let e := p.op flags
  let offset := addAt (e + 5) (p.accumulator flags i j) p.phaseParam
  subAt (e + 7) offset (floorAt (e + 6) offset)

/-- The state with the accumulator written to slot `i + 2j` (R563). -/
def OscPoint.turned (flags : Byte) (i j : Nat) (p : OscPoint) : State :=
  writeState p.state p.state.vi p.state.ui (i + 2 * j) (p.accumulator flags i j)

/-- The Gate's step before truncation, `(phase * 16) + 0.5` (R568). -/
def OscPoint.gateStep (flags : Byte) (i j : Nat) (p : OscPoint) : F32 :=
  addAt (p.op flags + 9) (mulAt (p.op flags + 8) (p.phase flags i j) f16) fHalf

/-- The Gate's smoother after the partial. It reads slot `4 + i` after the accumulator is written,
which is the same slot for `j = 2` (R568, R571). -/
def OscPoint.smoothed (flags : Byte) (gateBits : Half) (i j : Nat) (p : OscPoint) : F32 :=
  let e := p.op flags
  let a := if gateBits.getLsbD (truncInt (p.gateStep flags i j) % 16).toNat then f1 else f0
  addAt (e + 12) a (mulAt (e + 11) dcPole (subAt (e + 10)
    (readState (p.turned flags i j) p.state.vi p.state.ui (4 + i)) a))

/-- The point after partial `j` of channel `i`: the amplitude, through the waveshaper but for the Gate,
times the gain is added to the output; the phase offset grows by a twelfth and the detune is halved
and negated (R565 to R569). -/
def OscPoint.next (flags : Byte) (gateBits : Half) (i j : Nat) (p : OscPoint) : OscPoint :=
  let e := p.op flags
  let t := p.turned flags i j
  let moved (k : Nat) (u : State) (output : F32) : OscPoint :=
    { state := { u with draws := k + 2 }
      phaseParam := addAt k p.phaseParam twelfth
      detune := divAt (k + 1) (fneg p.detune) f2
      output := output }
  if selectWave flags = .gate then
    let y := p.smoothed flags gateBits i j
    moved (e + 15) (writeState t p.state.vi p.state.ui (4 + i) y)
      (addAt (e + 14) p.output (mulAt (e + 13) y (readParam p.state 5)))
  else
    let a := waveAmp (selectWave flags) (readParam p.state 3) (p.phase flags i j) (e + 8)
    let w := waveshape a.1 (readParam p.state 4) a.2
    moved (w.2 + 2) t (addAt (w.2 + 1) p.output (mulAt w.2 w.1 (readParam p.state 5)))

/-- The point after the first `n` partials of channel `i` (R560). -/
def OscPoint.partials (flags : Byte) (gateBits : Half) (i : Nat) : Nat → OscPoint → OscPoint
  | 0, p => p
  | n + 1, p => (OscPoint.partials flags gateBits i n p).next flags gateBits i n

/-! ### The invariant -/

/-- What holds of the sequencer registers inside a sample step (R120 to R124). -/
structure State.InStep (s : State) : Prop where
  room : s.bufPos + 2 ≤ bufCap s
  cc : s.cc ≤ s.patch.commands.length
  cci : s.cci ≤ s.patch.commands.length
  vc : s.vc ≤ s.patch.values.length
  vci : s.vci ≤ s.patch.values.length
  ui : s.ui ≤ 63
  dl : s.dl ≤ s.lines.length
  voices : s.vr ≠ 0 → s.vi.val + s.vr = s.patch.numVoices
  segment : s.vr ≠ 0 → segmentsFit s.ui (s.patch.commands.drop s.cc) = true
  instrument : segmentsFit 0 (s.patch.commands.drop s.cci) = true
  lines : s.dl + linesAhead s ≤ s.lines.length

/-- A well-formed state: the invariant of the core. -/
structure State.Wf (s : State) : Prop where
  /-- voice memory is canonical (R109) -/
  voices : ∀ v : Fin 32, Memory.wf unitWords (s.voices.get v).units = true
  /-- delay memory is canonical (R112) -/
  lines : ∀ l ∈ s.lines, Memory.wf 65536 l.buffer = true
  /-- the installed patch passed validation (R602) -/
  patch : validate s.patch = none
  /-- delay memory has the lines the patch needs (R603, R620) -/
  linesEnough : requiredLines s.patch ≤ s.lines.length
  /-- the seed is odd (R21, R115) -/
  seed : s.randSeed.getLsbD 0 = true
  /-- the stack is within its capacity (R113) -/
  stack : s.stk.length ≤ stackCap s
  /-- at every sample-step boundary of a call the depth is 4 (R113) -/
  boundary : s.phase = .loopTest → s.stk.length = 4
  /-- a poisoned core runs nothing (R711) -/
  poison : s.poisoned = true → s.phase = .idle
  /-- the registers of a running call (R126, R203) -/
  running : s.phase ≠ .idle →
    s.result = none ∧ s.bufPos = 2 * s.samples ∧ s.bufPos ≤ bufCap s ∧ s.syncPos ≤ syncCap s
  /-- the sequencer registers -/
  inStep : s.phase = .sampleStep → s.InStep

end Sys2Proof.Machine
end

