-- ==== Sys2Proof/Certificates/Slice0/Obligations.lean ====
section
/-! DEFINITION. The statements for the provers. A result statement gives the whole next state: every field
it does not name keeps the value it has in the state the record update starts from, which is the
state fetched, or the state `operandsRead` leaves (MaterialiseEffect says what that changes). The
draws `m.draws + k` are the numbers of the operations in the order of the rule's formula: a NaN
result has the pattern `Config.nan` of that number, of which nothing is known (log entry 3).
-/
open Sys2Proof Sys2Proof.Machine

/-! ### Encoding and decoding (30_encoding.md) -/

/-- R300 to R313: the decoder gives back every instruction that can be written, whatever value bytes
follow its operand group. -/
def Obligations.DecodeEncode : Prop :=
  ∀ (i : Instr) (rest : List Byte), i.wellFormed = true →
    decode (encode i).1 ((encode i).2 ++ rest) = .instr i

/-- R300, R301, R302: each word has one meaning. What the decoder reads is written with exactly the
bytes it was read from. -/
def Obligations.EncodeDecode : Prop :=
  ∀ (c : Byte) (vs : List Byte) (i : Instr), decode c vs = .instr i →
    i.wellFormed = true ∧ i.command = c ∧ ∃ rest, vs = i.operands ++ rest

/-- R311, R313, R403: the decoder refuses exactly the opcodes 31..127. Of the others it answers `ended`
for exactly the operand groups that the value stream does not hold completely: that the decoder
looks at them is the model's choice (log entry 15), because R403 decodes the command byte alone and
R405 and R303 raise the fault inside the command (ValueStreamFaults). -/
def Obligations.DecodeRefusal : Prop :=
  ∀ (c : Byte) (vs : List Byte),
    (decode c vs = .illegal c ↔ 31 ≤ opcodeOf c) ∧
    (decode c vs = .ended (opcodeOf c) ↔ opcodeOf c ≤ 30 ∧ vs.length < groupLength (opcodeOf c) vs)

/-- The ten words of R315 decode to the instructions they stand for. -/
def Obligations.DecodeExamples : Prop :=
  decode 0x36 [0x60] = .instr (.loadval false 96) ∧
  decode 0x28 [0x80] = .instr (.out false 128) ∧
  decode 0x00 [] = .instr (.advance false) ∧
  decode 0x30 [0x00, 0x00, 0x80, 0x00, 0x80] = .instr (.envelope false 0 0 128 0 128) ∧
  decode 0x1D [0x40, 0x80, 0x40] = .instr (.filter true 64 128 0x40) ∧
  decode 0x22 [0x80, 0x00, 0x00, 0x00, 0x00, 0x00, 0x01] = .instr (.delay false 128 0 0 0 0 0 1) ∧
  decode 0x34 [0x7C, 0x40, 0x00, 0x40, 0x40, 0x80, 0x04, 0x01, 0x00] =
    .instr (.oscillator false 124 64 0 64 64 128 0x04 (some 0x0001)) ∧
  decode 0x2D [0x80, 0x02] = .instr (.aux true 128 2) ∧
  decode 0x3B [0x02] = .instr (.input true 2) ∧
  decode 0x11 [] = .instr (.xch true)

/-- R402: inside a sample step, with a voice remaining, a step runs the instruction that the bytes at
the two cursors decode to, after the fetch has moved the command cursor past the command byte. The
second clause says it of one placed word. -/
def Obligations.StepRunsDecoded : Prop :=
  (∀ (s : State) (c : Byte) (i : Instr), s.phase = .sampleStep → s.vr ≠ 0 →
    s.patch.commands[s.cc]? = some c → decode c (s.patch.values.drop s.vc) = .instr i →
    step s = exec i { s with cc := s.cc + 1 }) ∧
  (∀ (s : State) (nbits w : Nat) (i : Instr), decodeTableWord nbits w = some i →
    step (s.withFetchWord nbits w) = exec i { s.withFetchWord nbits w with cc := 1 })

/-! ### Dispatch (40_dispatch.md) -/

/-- R402, R403, R703, R704: a fetch at the end of the command stream faults, and so does an illegal
opcode, with the command byte in the fault and nothing but the command cursor moved. -/
def Obligations.FetchFaults : Prop :=
  ∀ s : State, s.phase = .sampleStep → s.vr ≠ 0 →
    (s.patch.commands.length ≤ s.cc → step s =
      .next (faultEntry (.renderFault .commandStreamEnded) (some s.patch.commands.length) s)) ∧
    (∀ c : Byte, s.patch.commands[s.cc]? = some c → 31 ≤ opcodeOf c → step s =
      .next (faultEntry (.invalidOpcode c) (some s.cc) { s with cc := s.cc + 1 }))

/-- R405, R303, R701, R720: a legal command whose operand group the value stream does not hold
completely. Beyond unit 62 the unit check comes first. With too few bytes for the transformables
nothing is read; otherwise the transformables are materialised and the extra bytes that are there are
read before the fault. -/
def Obligations.ValueStreamFaults : Prop :=
  ∀ (s : State) (c : Byte), s.phase = .sampleStep → s.vr ≠ 0 →
    s.patch.commands[s.cc]? = some c → opcodeOf c ≤ 30 →
    (s.patch.values.drop s.vc).length < groupLength (opcodeOf c) (s.patch.values.drop s.vc) →
    let vs := s.patch.values.drop s.vc
    let f : State := { s with cc := s.cc + 1 }
    (63 ≤ s.ui → step s = .next (faultEntry (.renderFault .unitOverflow) (some s.cc) f)) ∧
    (s.ui < 63 → vs.length < transformCount (opcodeOf c) →
      step s = .next (faultEntry .valueStreamEnded (some s.cc) f)) ∧
    (s.ui < 63 → transformCount (opcodeOf c) ≤ vs.length →
      step s = .next (faultEntry .valueStreamEnded (some s.cc)
        (operandsRead (vs.take (transformCount (opcodeOf c)))
          (vs.length - transformCount (opcodeOf c)) f)))

/-- R405, R702, R720: what every unit checks. A unit beyond the 63 of a voice faults before it reads
anything; a form that finds fewer stack elements than it reads faults after its operands are read and
before it writes anything. -/
def Obligations.UnitChecks : Prop :=
  ∀ (i : Instr) (s : State),
    ((∀ b, i ≠ .advance b) → 63 ≤ s.ui →
      exec i s = .next (faultEntry (.renderFault .unitOverflow) (commandSite s) s)) ∧
    (s.ui < 63 → s.stk.length < depthRead i →
      exec i s = .next (faultEntry .stackUnderflow (commandSite s) (afterOperands i s)))

/-- R406 with R303: reading an operand group of `ts` transformables and `n` extra bytes. Parameter `i`
is its byte over 128 plus port `i`, the ports read are cleared, every other word of voice memory and
every other parameter is as before, and of the other fields only the value cursor and the draw
counter move. -/
def Obligations.MaterialiseEffect : Prop :=
  ∀ (ts : List Byte) (n : Nat) (s : State), ts.length ≤ 6 → s.ui < 63 →
    Memory.wf unitWords (s.voices.get s.vi).units = true →
    let m := operandsRead ts n s
    (∀ i b, ts[i]? = some b →
      readParam m i = addAt (s.draws + i) (paramByte b) (readPort s s.vi s.ui i) ∧
      readPort m s.vi s.ui i = f0) ∧
    (∀ v key, (v = s.vi → ∀ i, i < ts.length → key ≠ portKey s.ui i) →
      readUnit m v key = readUnit s v key) ∧
    (∀ v : Fin 32, (m.voices.get v).note = (s.voices.get v).note ∧
      (m.voices.get v).release = (s.voices.get v).release) ∧
    (∀ i, ts.length ≤ i → readParam m i = readParam s i) ∧
    m = { s with
      params := m.params
      voices := m.voices
      vc := s.vc + ts.length + n
      draws := s.draws + ts.length }

/-- R404: the three cases of `advance`: the last voice, the next voice with the share bit set, the next
voice with the share bit clear. The stereo bit has no effect (R310). -/
def Obligations.AdvanceResult : Prop :=
  ∀ (b : Bool) (s : State),
    (s.vr = 1 → exec (.advance b) s = .next { s with vr := 0 }) ∧
    (∀ r : Nat, s.vr = r + 2 → s.patch.polyphonyBitmask.getLsbD (r + 1) = true →
      exec (.advance b) s = .next
        { s with vr := r + 1, vi := s.vi + 1, ui := 0, cc := s.cci, vc := s.vci }) ∧
    (∀ r : Nat, s.vr = r + 2 → s.patch.polyphonyBitmask.getLsbD (r + 1) = false →
      exec (.advance b) s = .next
        { s with vr := r + 1, vi := s.vi + 1, ui := 0, cci := s.cc, vci := s.vc })

/-! ### Stack primitives (41_stack.md) -/

/-- R420, R422: `add` and `mul` replace the top (the top pair) by its sum (product) with the next
element (the next pair); too shallow a stack faults and nothing else changes. -/
def Obligations.AddMulResult : Prop :=
  ∀ s : State, s.ui < 63 →
    (∀ x y rest, s.stk = x :: y :: rest →
      exec (.add false) s = .next { s with
        stk := addAt s.draws x y :: y :: rest, draws := s.draws + 1, ui := s.ui + 1 } ∧
      exec (.mul false) s = .next { s with
        stk := mulAt s.draws x y :: y :: rest, draws := s.draws + 1, ui := s.ui + 1 }) ∧
    (∀ x0 x1 y0 y1 rest, s.stk = x0 :: x1 :: y0 :: y1 :: rest →
      exec (.add true) s = .next { s with
        stk := addAt s.draws x0 y0 :: addAt (s.draws + 1) x1 y1 :: y0 :: y1 :: rest
        draws := s.draws + 2, ui := s.ui + 1 } ∧
      exec (.mul true) s = .next { s with
        stk := mulAt s.draws x0 y0 :: mulAt (s.draws + 1) x1 y1 :: y0 :: y1 :: rest
        draws := s.draws + 2, ui := s.ui + 1 }) ∧
    (∀ b, s.stk.length < 2 * ch b →
      exec (.add b) s = .next (faultEntry .stackUnderflow (commandSite s) s) ∧
      exec (.mul b) s = .next (faultEntry .stackUnderflow (commandSite s) s))

/-- R421, R423: `addp` and `mulp` replace the next element (pair) and pop the top one. -/
def Obligations.AddpMulpResult : Prop :=
  ∀ s : State, s.ui < 63 →
    (∀ x y rest, s.stk = x :: y :: rest →
      exec (.addp false) s = .next { s with
        stk := addAt s.draws y x :: rest, draws := s.draws + 1, ui := s.ui + 1 } ∧
      exec (.mulp false) s = .next { s with
        stk := mulAt s.draws y x :: rest, draws := s.draws + 1, ui := s.ui + 1 }) ∧
    (∀ x0 x1 y0 y1 rest, s.stk = x0 :: x1 :: y0 :: y1 :: rest →
      exec (.addp true) s = .next { s with
        stk := addAt s.draws y0 x0 :: addAt (s.draws + 1) y1 x1 :: rest
        draws := s.draws + 2, ui := s.ui + 1 } ∧
      exec (.mulp true) s = .next { s with
        stk := mulAt s.draws y0 x0 :: mulAt (s.draws + 1) y1 x1 :: rest
        draws := s.draws + 2, ui := s.ui + 1 }) ∧
    (∀ b, s.stk.length < 2 * ch b →
      exec (.addp b) s = .next (faultEntry .stackUnderflow (commandSite s) s) ∧
      exec (.mulp b) s = .next (faultEntry .stackUnderflow (commandSite s) s))

/-- R424: `xch` swaps the top (pair) with the next (pair), bit for bit. -/
def Obligations.XchResult : Prop :=
  ∀ s : State, s.ui < 63 →
    (∀ x y rest, s.stk = x :: y :: rest →
      exec (.xch false) s = .next { s with stk := y :: x :: rest, ui := s.ui + 1 }) ∧
    (∀ x0 x1 y0 y1 rest, s.stk = x0 :: x1 :: y0 :: y1 :: rest →
      exec (.xch true) s = .next { s with stk := y0 :: y1 :: x0 :: x1 :: rest, ui := s.ui + 1 }) ∧
    (∀ b, s.stk.length < 2 * ch b →
      exec (.xch b) s = .next (faultEntry .stackUnderflow (commandSite s) s))

/-- R425: `push` duplicates the top (pair); without room it faults, and a stereo form with room for
one leaves the first element written. -/
def Obligations.PushResult : Prop :=
  ∀ s : State, s.ui < 63 →
    (∀ x rest, s.stk = x :: rest → s.stk.length < stackCap s →
      exec (.push false) s = .next { s with stk := x :: x :: rest, ui := s.ui + 1 }) ∧
    (∀ x rest, s.stk = x :: rest → stackCap s ≤ s.stk.length →
      exec (.push false) s =
        .next (faultEntry (.renderFault .stackOverflow) (commandSite s) s)) ∧
    (∀ x y rest, s.stk = x :: y :: rest → s.stk.length + 1 < stackCap s →
      exec (.push true) s = .next { s with stk := x :: y :: x :: y :: rest, ui := s.ui + 1 }) ∧
    (∀ x y rest, s.stk = x :: y :: rest → s.stk.length + 1 = stackCap s →
      exec (.push true) s = .next (faultEntry (.renderFault .stackOverflow) (commandSite s)
        { s with stk := y :: x :: y :: rest })) ∧
    (∀ x y rest, s.stk = x :: y :: rest → stackCap s ≤ s.stk.length →
      exec (.push true) s =
        .next (faultEntry (.renderFault .stackOverflow) (commandSite s) s)) ∧
    (∀ b, s.stk.length < ch b →
      exec (.push b) s = .next (faultEntry .stackUnderflow (commandSite s) s))

/-- R426: `pop` drops the top (pair). -/
def Obligations.PopResult : Prop :=
  ∀ s : State, s.ui < 63 →
    (∀ x rest, s.stk = x :: rest →
      exec (.pop false) s = .next { s with stk := rest, ui := s.ui + 1 }) ∧
    (∀ x y rest, s.stk = x :: y :: rest →
      exec (.pop true) s = .next { s with stk := rest, ui := s.ui + 1 }) ∧
    (∀ b, s.stk.length < ch b →
      exec (.pop b) s = .next (faultEntry .stackUnderflow (commandSite s) s))

/-! ### Sources (42_sources.md) -/

/-- R440, R441: `loadval` pushes its parameter in signed form and `loadnote` the note over 64 less 1,
the stereo forms twice; a full stack faults. For `loadval` the formula and V-SRC-1 are stated, not the
value R440's corner case gives for byte 255 (the model's choice, log entry 24). -/
def Obligations.ConstantSourcesResult : Prop :=
  ∀ (v : Byte) (s : State), s.ui < 63 →
    let m := operandsRead [v] 0 s
    let x := subAt (m.draws + 1) (mulAt m.draws (readParam m 0) f2) f1
    let m' : State := { m with draws := m.draws + 2 }
    let y := subAt (s.draws + 1)
      (divAt s.draws (ofInt (s.voices.get s.vi).note.toNat) f64) f1
    let s' : State := { s with draws := s.draws + 2 }
    (s.stk.length < stackCap s →
      exec (.loadval false v) s = .next { m' with stk := x :: s.stk, ui := s.ui + 1 } ∧
      exec (.loadnote false) s = .next { s' with stk := y :: s.stk, ui := s.ui + 1 }) ∧
    (s.stk.length + 1 < stackCap s →
      exec (.loadval true v) s = .next { m' with stk := x :: x :: s.stk, ui := s.ui + 1 } ∧
      exec (.loadnote true) s = .next { s' with stk := y :: y :: s.stk, ui := s.ui + 1 }) ∧
    (s.stk.length + 1 = stackCap s →
      exec (.loadval true v) s = .next (faultEntry (.renderFault .stackOverflow) (commandSite s)
        { m' with stk := x :: s.stk }) ∧
      exec (.loadnote true) s = .next (faultEntry (.renderFault .stackOverflow) (commandSite s)
        { s' with stk := y :: s.stk })) ∧
    (∀ b, stackCap s ≤ s.stk.length →
      exec (.loadval b v) s =
        .next (faultEntry (.renderFault .stackOverflow) (commandSite s) m') ∧
      exec (.loadnote b) s =
        .next (faultEntry (.renderFault .stackOverflow) (commandSite s) s'))

/-- R442: each channel of `noise` draws once and pushes the shaped, scaled draw; the first draw is
pushed first. -/
def Obligations.NoiseResult : Prop :=
  ∀ (shape gain : Byte) (s : State), s.ui < 63 →
    let m := operandsRead [shape, gain] 0 s
    let seed1 := s.randSeed * 16007
    let seed2 := seed1 * 16007
    let w1 := waveshape (divAt m.draws (ofInt seed1.toInt) fNegTwo31) (readParam m 0) (m.draws + 1)
    let y1 := mulAt w1.2 w1.1 (readParam m 1)
    let w2 := waveshape (divAt (w1.2 + 1) (ofInt seed2.toInt) fNegTwo31) (readParam m 0) (w1.2 + 2)
    let y2 := mulAt w2.2 w2.1 (readParam m 1)
    (s.stk.length < stackCap s →
      exec (.noise false shape gain) s = .next { m with
        randSeed := seed1, draws := w1.2 + 1, stk := y1 :: s.stk, ui := s.ui + 1 }) ∧
    (s.stk.length + 1 < stackCap s →
      exec (.noise true shape gain) s = .next { m with
        randSeed := seed2, draws := w2.2 + 1, stk := y2 :: y1 :: s.stk, ui := s.ui + 1 }) ∧
    (s.stk.length + 1 = stackCap s →
      exec (.noise true shape gain) s =
        .next (faultEntry (.renderFault .stackOverflow) (commandSite s)
          { m with randSeed := seed2, draws := w2.2 + 1, stk := y1 :: s.stk })) ∧
    (∀ b, stackCap s ≤ s.stk.length →
      exec (.noise b shape gain) s =
        .next (faultEntry (.renderFault .stackOverflow) (commandSite s)
          { m with randSeed := seed1, draws := w1.2 + 1 }))

/-- R443: `receive` pushes its port 0 (in stereo port 1 below it) and clears what it read, the ports
before the pushes. -/
def Obligations.ReceiveResult : Prop :=
  ∀ s : State, s.ui < 63 →
    let t := readPort s s.vi s.ui 0
    let r := readPort s s.vi s.ui 1
    let c1 := writePort s s.vi s.ui 0 f0
    let c2 := writePort c1 s.vi s.ui 1 f0
    (s.stk.length < stackCap s →
      exec (.receive false) s = .next { c1 with stk := t :: s.stk, ui := s.ui + 1 }) ∧
    (stackCap s ≤ s.stk.length →
      exec (.receive false) s =
        .next (faultEntry (.renderFault .stackOverflow) (commandSite s) c1)) ∧
    (s.stk.length + 1 < stackCap s →
      exec (.receive true) s = .next { c2 with stk := t :: r :: s.stk, ui := s.ui + 1 }) ∧
    (s.stk.length + 1 = stackCap s →
      exec (.receive true) s = .next (faultEntry (.renderFault .stackOverflow) (commandSite s)
        { c2 with stk := r :: s.stk })) ∧
    (stackCap s ≤ s.stk.length →
      exec (.receive true) s =
        .next (faultEntry (.renderFault .stackOverflow) (commandSite s) c2))

/-- R444, R309: `in` pushes bus channel `c` (in stereo `c + 1` below it) and clears it; a channel
beyond the bus faults once the channel byte is read. -/
def Obligations.InResult : Prop :=
  ∀ (c : Byte) (s : State), s.ui < 63 →
    let m : State := { s with vc := s.vc + 1 }
    let k := c.toNat
    (∀ b : Bool, 8 ≤ k + b.toNat →
      exec (.input b c) s =
        .next (faultEntry (.renderFault .channelRange) (commandSite s) m)) ∧
    (k < 8 → s.stk.length < stackCap s →
      exec (.input false c) s = .next { writeOutput m k f0 with
        stk := readOutput s k :: s.stk, ui := s.ui + 1 }) ∧
    (k < 8 → stackCap s ≤ s.stk.length →
      exec (.input false c) s = .next
        (faultEntry (.renderFault .stackOverflow) (commandSite s) (writeOutput m k f0))) ∧
    (k < 7 → s.stk.length + 1 < stackCap s →
      exec (.input true c) s = .next { writeOutput (writeOutput m k f0) (k + 1) f0 with
        stk := readOutput s k :: readOutput s (k + 1) :: s.stk, ui := s.ui + 1 }) ∧
    (k < 7 → s.stk.length + 1 = stackCap s →
      exec (.input true c) s = .next
        (faultEntry (.renderFault .stackOverflow) (commandSite s)
          { writeOutput (writeOutput m k f0) (k + 1) f0 with
            stk := readOutput s (k + 1) :: s.stk })) ∧
    (k < 7 → stackCap s ≤ s.stk.length →
      exec (.input true c) s = .next
        (faultEntry (.renderFault .stackOverflow) (commandSite s)
          (writeOutput (writeOutput m k f0) (k + 1) f0)))

/-! ### Sinks (43_sinks.md) -/

/-- R460: `out` adds the top, times its gain, to channel 0 (in stereo the next element to channel 1)
and pops what it used. -/
def Obligations.OutResult : Prop :=
  ∀ (gain : Byte) (s : State), s.ui < 63 →
    let m := operandsRead [gain] 0 s
    let g := readParam m 0
    let d := m.draws
    (∀ x rest, s.stk = x :: rest →
      exec (.out false gain) s = .next
        { writeOutput m 0 (addAt (d + 1) (readOutput s 0) (mulAt d g x)) with
          stk := rest, draws := d + 2, ui := s.ui + 1 }) ∧
    (∀ x y rest, s.stk = x :: y :: rest →
      exec (.out true gain) s = .next
        { writeOutput (writeOutput m 0 (addAt (d + 1) (readOutput s 0) (mulAt d g x)))
            1 (addAt (d + 3) (readOutput s 1) (mulAt (d + 2) g y)) with
          stk := rest, draws := d + 4, ui := s.ui + 1 }) ∧
    (∀ b, s.stk.length < ch b →
      exec (.out b gain) s = .next (faultEntry .stackUnderflow (commandSite s) m))

/-- R461: `outaux` adds the same signal to channels 0 (and 1) by `outgain` and to channels 2 (and 3)
by `auxgain`, and pops it. -/
def Obligations.OutauxResult : Prop :=
  ∀ (outgain auxgain : Byte) (s : State), s.ui < 63 →
    let m := operandsRead [outgain, auxgain] 0 s
    let go := readParam m 0
    let ga := readParam m 1
    let d := m.draws
    (∀ x rest, s.stk = x :: rest →
      exec (.outaux false outgain auxgain) s = .next
        { writeOutput (writeOutput m 0 (addAt (d + 1) (readOutput s 0) (mulAt d go x)))
            2 (addAt (d + 3) (readOutput s 2) (mulAt (d + 2) ga x)) with
          stk := rest, draws := d + 4, ui := s.ui + 1 }) ∧
    (∀ x y rest, s.stk = x :: y :: rest →
      exec (.outaux true outgain auxgain) s = .next
        { writeOutput (writeOutput (writeOutput (writeOutput m
            0 (addAt (d + 1) (readOutput s 0) (mulAt d go x)))
            1 (addAt (d + 3) (readOutput s 1) (mulAt (d + 2) go y)))
            2 (addAt (d + 5) (readOutput s 2) (mulAt (d + 4) ga x)))
            3 (addAt (d + 7) (readOutput s 3) (mulAt (d + 6) ga y)) with
          stk := rest, draws := d + 8, ui := s.ui + 1 }) ∧
    (∀ b, s.stk.length < ch b →
      exec (.outaux b outgain auxgain) s =
        .next (faultEntry .stackUnderflow (commandSite s) m))

/-- R462, R309: `aux` adds to channel `c` (and `c + 1`) and pops; the depth is checked before the
channel. -/
def Obligations.AuxResult : Prop :=
  ∀ (gain c : Byte) (s : State), s.ui < 63 →
    let m := operandsRead [gain] 1 s
    let g := readParam m 0
    let d := m.draws
    let k := c.toNat
    (∀ x rest, s.stk = x :: rest → k < 8 →
      exec (.aux false gain c) s = .next
        { writeOutput m k (addAt (d + 1) (readOutput s k) (mulAt d g x)) with
          stk := rest, draws := d + 2, ui := s.ui + 1 }) ∧
    (∀ x y rest, s.stk = x :: y :: rest → k < 7 →
      exec (.aux true gain c) s = .next
        { writeOutput (writeOutput m k (addAt (d + 1) (readOutput s k) (mulAt d g x)))
            (k + 1) (addAt (d + 3) (readOutput s (k + 1)) (mulAt (d + 2) g y)) with
          stk := rest, draws := d + 4, ui := s.ui + 1 }) ∧
    (∀ b : Bool, ch b ≤ s.stk.length → 8 ≤ k + b.toNat →
      exec (.aux b gain c) s =
        .next (faultEntry (.renderFault .channelRange) (commandSite s) m)) ∧
    (∀ b, s.stk.length < ch b →
      exec (.aux b gain c) s = .next (faultEntry .stackUnderflow (commandSite s) m))

/-! ### Transforms (44_transforms.md) -/

/-- R480, R481: `gain` multiplies and `invgain` divides each channel by its parameter. -/
def Obligations.GainInvgainResult : Prop :=
  ∀ (g : Byte) (s : State), s.ui < 63 →
    let m := operandsRead [g] 0 s
    let p := readParam m 0
    let d := m.draws
    (∀ x rest, s.stk = x :: rest →
      exec (.gain false g) s = .next { m with
        stk := mulAt d x p :: rest, draws := d + 1, ui := s.ui + 1 } ∧
      exec (.invgain false g) s = .next { m with
        stk := divAt d x p :: rest, draws := d + 1, ui := s.ui + 1 }) ∧
    (∀ x y rest, s.stk = x :: y :: rest →
      exec (.gain true g) s = .next { m with
        stk := mulAt d x p :: mulAt (d + 1) y p :: rest, draws := d + 2, ui := s.ui + 1 } ∧
      exec (.invgain true g) s = .next { m with
        stk := divAt d x p :: divAt (d + 1) y p :: rest, draws := d + 2, ui := s.ui + 1 }) ∧
    (∀ b, s.stk.length < ch b →
      exec (.gain b g) s = .next (faultEntry .stackUnderflow (commandSite s) m) ∧
      exec (.invgain b g) s = .next (faultEntry .stackUnderflow (commandSite s) m))

/-- R482: `clip` replaces a value above 1 by 1.0 and one below -1 by -1.0; every other pattern, a NaN
among them, stays bit for bit. -/
def Obligations.ClipResult : Prop :=
  ∀ s : State, s.ui < 63 →
    (∀ x, (flt f1 x = true → clipValue x = f1) ∧ (flt x fNeg1 = true → clipValue x = fNeg1) ∧
      (flt f1 x = false → flt x fNeg1 = false → clipValue x = x) ∧
      (isNaN x = true → clipValue x = x)) ∧
    (∀ x rest, s.stk = x :: rest →
      exec (.clip false) s = .next { s with stk := clipValue x :: rest, ui := s.ui + 1 }) ∧
    (∀ x y rest, s.stk = x :: y :: rest →
      exec (.clip true) s = .next { s with
        stk := clipValue x :: clipValue y :: rest, ui := s.ui + 1 }) ∧
    (∀ b, s.stk.length < ch b →
      exec (.clip b) s = .next (faultEntry .stackUnderflow (commandSite s) s))

/-- R483, R484: `crush` gives `RoundF(x / q) * q` under the core's tie rule and `distort` the
waveshaper, per channel. R17: what the conversions to integers compute, here and in the statements
about `speed`, `delay` and the oscillator. `RoundI` of a finite value is a nearest integer, and of two
equally near ones the one away from zero or the even one, as P_ROUND_TIE says; `RoundF` is that integer
as a binary32 value, exactly, and leaves a value that is not finite as it is; `TruncI` discards the
fraction toward zero; `Floor` is the largest integer not greater, and leaves an infinity as it is;
`Abs` clears the sign. -/
def Obligations.CrushDistortResult : Prop :=
  (∀ (tie : RoundTie) (x : F32), isFinite x = true →
    let one : Int := 2 ^ 149
    let n := roundInt tie x
    (∀ k : Int, (scaled x - n * one).natAbs ≤ (scaled x - k * one).natAbs) ∧
    (∀ k : Int, k ≠ n → (scaled x - k * one).natAbs = (scaled x - n * one).natAbs →
      (tie = .awayFromZero → k.natAbs < n.natAbs) ∧ (tie = .toEven → n % 2 = 0)) ∧
    (isFinite (roundF tie x) = true ∧ roundF tie x = ofInt n ∧ scaled (roundF tie x) = n * one) ∧
    ((truncInt x).natAbs * 2 ^ 149 ≤ (scaled x).natAbs ∧
      (scaled x).natAbs < ((truncInt x).natAbs + 1) * 2 ^ 149 ∧
      0 ≤ truncInt x * scaled x) ∧
    (isFinite (floorNumber x) = true ∧ ∃ k : Int, scaled (floorNumber x) = k * one ∧
      k * one ≤ scaled x ∧ scaled x < (k + 1) * one)) ∧
  (∀ (tie : RoundTie) (x : F32),
    (isFinite x = false → roundF tie x = x ∧ floorNumber x = x) ∧
    isNeg (fabs x) = false ∧ (isNaN x = false → magnitude (fabs x) = magnitude x)) ∧
  ∀ (q : Byte) (s : State), s.ui < 63 →
    let m := operandsRead [q] 0 s
    let p := readParam m 0
    let d := m.draws
    let crushed := fun (k : Nat) (x : F32) =>
      mulAt (k + 1) (roundF s.cfg.roundTie (divAt k x p)) p
    (∀ x rest, s.stk = x :: rest →
      exec (.crush false q) s = .next { m with
        stk := crushed d x :: rest, draws := d + 2, ui := s.ui + 1 } ∧
      exec (.distort false q) s = .next { m with
        stk := (waveshape x p d).1 :: rest, draws := d + 7, ui := s.ui + 1 }) ∧
    (∀ x y rest, s.stk = x :: y :: rest →
      exec (.crush true q) s = .next { m with
        stk := crushed d x :: crushed (d + 2) y :: rest, draws := d + 4, ui := s.ui + 1 } ∧
      exec (.distort true q) s = .next { m with
        stk := (waveshape x p d).1 :: (waveshape y p (d + 7)).1 :: rest
        draws := d + 14, ui := s.ui + 1 }) ∧
    (∀ b, s.stk.length < ch b →
      exec (.crush b q) s = .next (faultEntry .stackUnderflow (commandSite s) m) ∧
      exec (.distort b q) s = .next (faultEntry .stackUnderflow (commandSite s) m))

/-- R485: `pan` scales the top by `p` and the next element by `1 - p`; the mono form duplicates the
top first and needs room for it. -/
def Obligations.PanResult : Prop :=
  ∀ (p : Byte) (s : State), s.ui < 63 →
    let m := operandsRead [p] 0 s
    let q := readParam m 0
    let d := m.draws
    let panned := fun (l r : F32) => [mulAt d l q, mulAt (d + 2) r (subAt (d + 1) f1 q)]
    (∀ x rest, s.stk = x :: rest → s.stk.length < stackCap s →
      exec (.pan false p) s = .next { m with
        stk := panned x x ++ rest, draws := d + 3, ui := s.ui + 1 }) ∧
    (s.stk ≠ [] → stackCap s ≤ s.stk.length →
      exec (.pan false p) s =
        .next (faultEntry (.renderFault .stackOverflow) (commandSite s) m)) ∧
    (∀ x y rest, s.stk = x :: y :: rest →
      exec (.pan true p) s = .next { m with
        stk := panned x y ++ rest, draws := d + 3, ui := s.ui + 1 }) ∧
    (∀ b, s.stk.length < ch b →
      exec (.pan b p) s = .next (faultEntry .stackUnderflow (commandSite s) m))

/-! ### Modulators (45_modulators.md) -/

/-- R500: `envelope` runs its state machine once, on the stage code (Release while the release flag is
set) and the level in slots 0 and 1, keeps the result there and pushes level times gain, formed anew
for the second push. EnvelopeStages says what the state machine computes. -/
def Obligations.EnvelopeResult : Prop :=
  ∀ (a dc su re g : Byte) (s : State), s.ui < 63 →
    let m := operandsRead [a, dc, su, re, g] 0 s
    let stage := if (s.voices.get s.vi).release then f3 else readState m s.vi s.ui 0
    let n := envelopeNext (readParam m 0) (readParam m 1) (readParam m 2) (readParam m 3)
      stage (readState m s.vi s.ui 1) m.draws
    let e := n.2
    let t := writeState (writeState m s.vi s.ui 0 n.1.1) s.vi s.ui 1 n.1.2
    let y := fun k => mulAt k n.1.2 (readParam m 4)
    (s.stk.length < stackCap s →
      exec (.envelope false a dc su re g) s = .next { t with
        stk := y e :: s.stk, draws := e + 1, ui := s.ui + 1 }) ∧
    (s.stk.length + 1 < stackCap s →
      exec (.envelope true a dc su re g) s = .next { t with
        stk := y (e + 1) :: y e :: s.stk, draws := e + 2, ui := s.ui + 1 }) ∧
    (s.stk.length + 1 = stackCap s →
      exec (.envelope true a dc su re g) s =
        .next (faultEntry (.renderFault .stackOverflow) (commandSite s)
          { t with stk := y e :: s.stk, draws := e + 2 })) ∧
    (∀ b, stackCap s ≤ s.stk.length →
      exec (.envelope b a dc su re g) s =
        .next (faultEntry (.renderFault .stackOverflow) (commandSite s)
          { t with draws := e + 1 }))

/-- R500, R20: one sample of the envelope. Attack adds its rate and, on reaching 1, goes to Decay at
level 1; Decay subtracts and holds at the sustain level; Release subtracts and holds at +0.0; Sustain
keeps the level. No stage but Attack changes, so Sustain is never entered. A rate parameter of +0.0
is rate 1. -/
def Obligations.EnvelopeStages : Prop :=
  ∀ (a dc su re level : F32) (d : Nat),
    let rate := fun p => exp2F (mulAt d fNeg24 p)
    let up := addAt (d + 1) level (rate a)
    let down := subAt (d + 1) level (rate dc)
    let fall := subAt (d + 1) level (rate re)
    envelopeNext a dc su re f0 level d = (if fle f1 up then (f1, f1) else (f0, up), d + 2) ∧
    envelopeNext a dc su re f1 level d = ((f1, if fle down su then su else down), d + 2) ∧
    envelopeNext a dc su re f2 level d = ((f2, level), d) ∧
    envelopeNext a dc su re f3 level d = ((f3, if flt fall f0 then f0 else fall), d + 2) ∧
    (∀ stage, (envelopeNext a dc su re stage level d).1.1 = stage ∨
      feq stage f0 = true ∧ (envelopeNext a dc su re stage level d).1 = (f1, f1)) ∧
    (isNaN level = false → isNeg level = false →
      (envelopeNext f0 dc su re f0 level d).1 = (f1, f1)) ∧
    flt (envelopeNext a dc su re f3 level d).1.2 f0 = false

/-- R501: `hold`, per channel `i`: the phase in slot `i` falls by the square of the parameter; at zero
or below it is raised by 1 and slot `2 + i` takes the input; the channel becomes slot `2 + i`. -/
def Obligations.HoldResult : Prop :=
  ∀ (f : Byte) (s : State), s.ui < 63 →
    Memory.wf unitWords (s.voices.get s.vi).units = true →
    let m := operandsRead [f] 0 s
    let v := s.vi
    let u := s.ui
    let d := m.draws
    let f2 := mulAt d (readParam m 0) (readParam m 0)
    let fallen := fun k i => subAt k (readState m v u i) f2
    let held := fun k i x => if fle (fallen k i) f0 then x else readState m v u (2 + i)
    let phase := fun k i => if fle (fallen k i) f0 then addAt (k + 1) (fallen k i) f1 else fallen k i
    let after := fun t k i x => writeState (writeState t v u (2 + i) (held k i x)) v u i (phase k i)
    (∀ x rest, s.stk = x :: rest →
      exec (.hold false f) s = .next { after m (d + 1) 0 x with
        stk := held (d + 1) 0 x :: rest, draws := d + 3, ui := s.ui + 1 }) ∧
    (∀ x y rest, s.stk = x :: y :: rest →
      exec (.hold true f) s = .next { after (after m (d + 1) 0 x) (d + 3) 1 y with
        stk := held (d + 1) 0 x :: held (d + 3) 1 y :: rest, draws := d + 5, ui := s.ui + 1 }) ∧
    (∀ b, s.stk.length < ch b →
      exec (.hold b f) s = .next (faultEntry .stackUnderflow (commandSite s) m))

/-- R502, R305: `filter`, per channel `i`: the two integrators in slots `2i` and `2i + 1`, the new low
and the old band in the high tap, and the selected taps summed from +0.0 in the order of the flags
byte. -/
def Obligations.FilterResult : Prop :=
  (∀ (flags : Byte) (low band high : F32) (d : Nat),
    let add := fun (c : Bool) (x : F32) (y : F32 × Nat) =>
      if c then (addAt y.2 y.1 x, y.2 + 1) else y
    filterTaps flags low band high d =
      add (flags.getLsbD 2) (fneg high) (add (flags.getLsbD 3) (fneg band)
        (add (flags.getLsbD 4) high (add (flags.getLsbD 5) band
          (add (flags.getLsbD 6) low (f0, d)))))) ∧
  ∀ (fr rs flags : Byte) (s : State), s.ui < 63 →
    Memory.wf unitWords (s.voices.get s.vi).units = true →
    let m := operandsRead [fr, rs] 1 s
    let v := s.vi
    let u := s.ui
    let d := m.draws
    let f2 := mulAt d (readParam m 0) (readParam m 0)
    let low := fun k i => addAt (k + 1) (readState m v u (2 * i))
      (mulAt k f2 (readState m v u (2 * i + 1)))
    let high := fun k i x => subAt (k + 4) (subAt (k + 2) x (low k i))
      (mulAt (k + 3) (readParam m 1) (readState m v u (2 * i + 1)))
    let band := fun k i x => addAt (k + 6) (readState m v u (2 * i + 1))
      (mulAt (k + 5) f2 (high k i x))
    let after := fun t k i x =>
      writeState (writeState t v u (2 * i) (low k i)) v u (2 * i + 1) (band k i x)
    let y := fun k i x => filterTaps flags (low k i) (band k i x) (high k i x) (k + 7)
    (∀ x rest, s.stk = x :: rest →
      exec (.filter false fr rs flags) s = .next { after m (d + 1) 0 x with
        stk := (y (d + 1) 0 x).1 :: rest, draws := (y (d + 1) 0 x).2, ui := s.ui + 1 }) ∧
    (∀ x z rest, s.stk = x :: z :: rest →
      let k := (y (d + 1) 0 x).2
      exec (.filter true fr rs flags) s = .next { after (after m (d + 1) 0 x) k 1 z with
        stk := (y (d + 1) 0 x).1 :: (y k 1 z).1 :: rest, draws := (y k 1 z).2
        ui := s.ui + 1 }) ∧
    (∀ b, s.stk.length < ch b →
      exec (.filter b fr rs flags) s = .next (faultEntry .stackUnderflow (commandSite s) m))

/-- R503: `compressor` follows the signal power with attack while it rises and release otherwise, and
pushes `PowF(t2 / level, ratio / 2) / invgain` above the threshold and `1 / invgain` below it; its
input stays on the stack. The level is the formula's at every rate (log entry 27). -/
def Obligations.CompressorResult : Prop :=
  ∀ (a re ig th ra : Byte) (s : State), s.ui < 63 →
    let m := operandsRead [a, re, ig, th, ra] 0 s
    let level0 := readState m s.vi s.ui 0
    let d := m.draws
    let level := fun k x2 => addAt (k + 3) level0 (mulAt (k + 2)
      (exp2F (mulAt k fNeg24 (if flt level0 x2 then readParam m 0 else readParam m 1)))
      (subAt (k + 1) x2 level0))
    let t2 := fun k => mulAt k (readParam m 3) (readParam m 3)
    let loud := fun k l => flt (t2 k) l
    let gain := fun k l =>
      if loud k l then
        divAt (k + 3) (powF (divAt (k + 1) (t2 k) l) (divAt (k + 2) (readParam m 4) Machine.f2))
          (readParam m 2)
      else divAt (k + 1) f1 (readParam m 2)
    let last := fun k l => if loud k l then k + 4 else k + 2
    (∀ x rest, s.stk = x :: rest →
      let l := level (d + 1) (mulAt d x x)
      let k := d + 5
      (s.stk.length < stackCap s →
        exec (.compressor false a re ig th ra) s = .next { writeState m s.vi s.ui 0 l with
          stk := gain k l :: s.stk, draws := last k l, ui := s.ui + 1 }) ∧
      (stackCap s ≤ s.stk.length →
        exec (.compressor false a re ig th ra) s =
          .next (faultEntry (.renderFault .stackOverflow) (commandSite s)
            { writeState m s.vi s.ui 0 l with draws := last k l }))) ∧
    (∀ x y rest, s.stk = x :: y :: rest →
      let l := level (d + 3) (addAt (d + 2) (mulAt d x x) (mulAt (d + 1) y y))
      let k := d + 7
      (s.stk.length + 1 < stackCap s →
        exec (.compressor true a re ig th ra) s = .next { writeState m s.vi s.ui 0 l with
          stk := gain k l :: gain k l :: s.stk, draws := last k l, ui := s.ui + 1 }) ∧
      (s.stk.length + 1 = stackCap s →
        exec (.compressor true a re ig th ra) s =
          .next (faultEntry (.renderFault .stackOverflow) (commandSite s)
            { writeState m s.vi s.ui 0 l with stk := gain k l :: s.stk, draws := last k l })) ∧
      (stackCap s ≤ s.stk.length →
        exec (.compressor true a re ig th ra) s =
          .next (faultEntry (.renderFault .stackOverflow) (commandSite s)
            { writeState m s.vi s.ui 0 l with draws := last k l }))) ∧
    (∀ b, s.stk.length < ch b →
      exec (.compressor b a re ig th ra) s =
        .next (faultEntry .stackUnderflow (commandSite s) m))

/-! ### Routing (46_routing.md) -/

/-- R520, R307: the target of a send address. A unit field of 0 faults; then a port beyond 7 faults;
else the unit is the field less 1, the port bits 2:0, and the voice bits 14:10 of a global address
(the subtraction of 0x8010 notwithstanding) or the executing voice. Bit 9 has no effect. -/
def Obligations.SendAddress : Prop :=
  ∀ (a : Half) (b : Bool) (vi : Fin 32),
    let field := (a.extractLsb' 4 5).toNat
    let port := (a.extractLsb' 0 3).toNat
    (field = 0 → resolveSend a b vi = .error (.renderFault .sendTarget)) ∧
    (field ≠ 0 → 8 ≤ port + b.toNat → resolveSend a b vi = .error (.renderFault .portRange)) ∧
    (field ≠ 0 → port + b.toNat < 8 →
      ∃ v : Fin 32, resolveSend a b vi = .ok (v, field - 1, port) ∧
        v.val = if a.getLsbD 15 then (a.extractLsb' 10 5).toNat else vi.val) ∧
    resolveSend a b vi = resolveSend (a &&& 0xFDFF#16) b vi

/-- R521: `send` adds the top, times the signed amount, to port `p` of unit `u` of voice `v` (in stereo
the next element to port `p + 1`) and pops what it sent when address bit 3 is set. An address that
resolves to no port faults after the depth check. The frame clause: every other word of voice memory
reads as after the operands were read. The signed amount is the formula's, not the value R521's corner
case gives for byte 255 (the model's choice, log entry 24). -/
def Obligations.SendResult : Prop :=
  ∀ (am : Byte) (adr : Half) (s : State), s.ui < 63 →
    let m := operandsRead [am] 2 s
    let d := m.draws
    let amt := subAt (d + 1) (mulAt d (readParam m 0) f2) f1
    (∀ v u p x rest, resolveSend adr false s.vi = .ok (v, u, p) → s.stk = x :: rest →
      exec (.send false am adr) s = .next
        { writePort m v u p (addAt (d + 3) (readPort m v u p) (mulAt (d + 2) x amt)) with
          stk := if adr.getLsbD 3 then rest else s.stk, draws := d + 4, ui := s.ui + 1 }) ∧
    (∀ v u p x y rest, resolveSend adr true s.vi = .ok (v, u, p) → s.stk = x :: y :: rest →
      let t := writePort m v u p (addAt (d + 3) (readPort m v u p) (mulAt (d + 2) x amt))
      exec (.send true am adr) s = .next
        { writePort t v u (p + 1)
            (addAt (d + 5) (readPort t v u (p + 1)) (mulAt (d + 4) y amt)) with
          stk := if adr.getLsbD 3 then rest else s.stk, draws := d + 6, ui := s.ui + 1 }) ∧
    (∀ b e, resolveSend adr b s.vi = .error e → ch b ≤ s.stk.length →
      exec (.send b am adr) s = .next (faultEntry e (commandSite s) m)) ∧
    (∀ b, s.stk.length < ch b →
      exec (.send b am adr) s = .next (faultEntry .stackUnderflow (commandSite s) m)) ∧
    ((∀ w : Fin 32, Memory.wf unitWords (s.voices.get w).units = true) →
      ∀ b v u p t, resolveSend adr b s.vi = .ok (v, u, p) → ch b ≤ s.stk.length →
        exec (.send b am adr) s = .next t →
        ∀ w key, (w = v → key ≠ portKey u p ∧ (b = true → key ≠ portKey u (p + 1))) →
          readUnit t w key = readUnit m w key)

/-- R524: `speed` pops its control signal, adds a whole number of samples to `time` and carries the
rest in slot 0; an accumulator that is not finite faults, with the signal popped, and so does every
NaN control signal, whatever `P_EXP2` gives at a NaN (R524's sentence, log entry 28). The stereo bit is
ignored. -/
def Obligations.SpeedResult : Prop :=
  ∀ (b : Bool) (s : State) (x : F32) (rest : List F32), s.ui < 63 → s.stk = x :: rest →
    let d := s.draws
    let exponent := mulAt d kSpeed x
    let acc := addAt (d + 2) (readState s s.vi s.ui 0)
      (subAt (d + 1) (if isNaN x then exponent else exp2F exponent) f1)
    let shifted := addAt (d + 3) acc f1_5
    let n := truncInt shifted - 1
    (isFinite shifted = true →
      exec (.speed b) s = .next
        { writeState s s.vi s.ui 0 (subAt (d + 4) acc (ofInt n)) with
          stk := rest, time := s.time + n, draws := d + 5, ui := s.ui + 1 }) ∧
    (isFinite shifted = false ∨ isNaN x = true →
      exec (.speed b) s =
        .next (faultEntry (.renderFault .nonFiniteIndex) (commandSite s)
          { s with stk := rest, draws := d + 4 }))

/-- R526: `sync` writes the top to the next word of the sync buffer when `globalTime` is a multiple of
256 and pops nothing; in the other steps it changes nothing but the unit cursor; without room for a
due word it faults. -/
def Obligations.SyncResult : Prop :=
  ∀ (b : Bool) (s : State) (x : F32) (rest : List F32), s.ui < 63 → s.stk = x :: rest →
    (s.globalTime.toNat % 256 = 0 → s.syncPos < s.syncBuffer.length →
      exec (.sync b) s = .next { s with
        syncBuffer := s.syncBuffer.set s.syncPos x, syncPos := s.syncPos + 1
        ui := s.ui + 1 }) ∧
    (s.globalTime.toNat % 256 = 0 → s.syncBuffer.length ≤ s.syncPos →
      exec (.sync b) s =
        .next (faultEntry (.renderFault .syncBufferFull) (commandSite s) s)) ∧
    (s.globalTime.toNat % 256 ≠ 0 → exec (.sync b) s = .next { s with ui := s.ui + 1 })

/-! ### The delay-line unit (47_delay.md) -/

/-- R540, R542, R543 for one unpitched line (count 1, mono), with every word written out. The tap is
read exactly `entry` samples back, before the ring is written: the port 4 term reads +0.0 and changes
nothing. -/
def Obligations.DelayOneLine : Prop :=
  ∀ (pg dry fb dp da index : Byte) (s : State) (x : F32) (rest : List F32) (L : DelayLine)
    (entry : Half), s.ui < 63 → Memory.wf unitWords (s.voices.get s.vi).units = true →
    s.stk = x :: rest → s.lines[s.dl]? = some L →
    s.patch.delayTimes[index.toNat]? = some entry →
    let m := operandsRead [pg, dry, fb, dp, da] 2 s
    let d := m.draws
    let t := s.globalTime.toNat % 65536
    let del := Memory.read L.buffer ((t + 65536 - entry.toNat) % 65536)
    let sum := addAt (d + 4) (mulAt (d + 1) (readParam m 1) x) del
    let damped := addAt (d + 8) (mulAt (d + 5) (readParam m 4) L.dampState)
      (mulAt (d + 7) (subAt (d + 6) f1 (readParam m 4)) del)
    let w := addAt (d + 11) (mulAt (d + 9) (readParam m 2) damped)
      (mulAt (d + 10) (mulAt d (readParam m 0) (readParam m 0)) x)
    let y := subAt (d + 14) (addAt (d + 13) sum (mulAt (d + 12) dcPole L.dcFiltState)) L.dcIn
    exec (.delay false pg dry fb dp da index 1) s = .next
      { m with
        lines := s.lines.set s.dl
          { buffer := Memory.write L.buffer t w, dampState := damped, dcIn := sum, dcFiltState := y }
        dl := s.dl + 1, stk := y :: rest, draws := d + 15, ui := s.ui + 1 }

/-- R540 to R543: every form of `delay` completes where its lines and its DelayTimes entries exist, with
the values of `DelayCall`: the stack elements and lines of both channels, with `n` lines and entries
per channel, the pitched division, the damping and the word of each line, and the DC blocker on the
last line of each channel. Every delay is finite, a pitched one because `Exp2F` is monotone (R16, as
log entry 4 reads it) and so at least 1 at a note. The frame clauses: every other line, and port 4. -/
def Obligations.DelayCompletes : Prop :=
  ∀ (b : Bool) (pg dry fb dp da index count : Byte) (s : State), s.ui < 63 →
    Memory.wf unitWords (s.voices.get s.vi).units = true →
    let m := operandsRead [pg, dry, fb, dp, da] 2 s
    let n := if count.toNat % 2 = 0 then count.toNat / 2 else count.toNat
    let c : DelayCall := { m := m, n := n, index := index.toNat, pitched := count.toNat % 2 = 0 }
    let all := ch b * n
    n ≠ 0 → ch b ≤ s.stk.length → s.dl + all ≤ s.lines.length →
    index.toNat + all ≤ s.patch.delayTimes.length →
    let t : State := { c.after all with draws := c.first (ch b), ui := s.ui + 1 }
    exec (.delay b pg dry fb dp da index count) s = .next t ∧
    t.lines.length = s.lines.length ∧
    (∀ i k, i < ch b → k < n → t.lines[s.dl + (i * n + k)]? = some (c.new i k)) ∧
    (∀ j, (j < s.dl ∨ s.dl + all ≤ j) → t.lines[j]? = s.lines[j]?) ∧
    (∀ i, i < ch b → t.stk[i]? = some (c.output i)) ∧ t.stk.drop (ch b) = s.stk.drop (ch b) ∧
    readPort t s.vi s.ui 4 = f0 ∧
    (∀ i k, i < ch b → k < n → isFinite (c.length i k) = true)

/-- R540, R542, R711, R720: where `delay` faults: a line count of 0; then, at the first line `j` of the
command that is not there or has no entry, no line left at the cursor, or an entry beyond the table.
The lines before `j` stay updated, a channel they complete stays replaced, and a line whose entry is
beyond the table is consumed. The last clause is about one line by itself: with its line and entry
there, a delay that is not finite gives NonFiniteIndex with the line consumed. A whole `delay` never
meets it (DelayCompletes). -/
def Obligations.DelayFaults : Prop :=
  (∀ (b : Bool) (pg dry fb dp da index count : Byte) (s : State), s.ui < 63 →
    ch b ≤ s.stk.length →
    let m := operandsRead [pg, dry, fb, dp, da] 2 s
    let n := if count.toNat % 2 = 0 then count.toNat / 2 else count.toNat
    let i : Instr := .delay b pg dry fb dp da index count
    let c : DelayCall := { m := m, n := n, index := index.toNat, pitched := count.toNat % 2 = 0 }
    (n = 0 → exec i s =
      .next (faultEntry (.renderFault .delayLinesExhausted) (commandSite s) m)) ∧
    (n ≠ 0 → s.lines.length ≤ s.dl → exec i s =
      .next (faultEntry (.renderFault .delayLinesExhausted) (commandSite s)
        { m with draws := m.draws + 2 })) ∧
    (n ≠ 0 → s.dl < s.lines.length → s.patch.delayTimes.length ≤ index.toNat → exec i s =
      .next (faultEntry (.renderFault .delayTimeIndex) (commandSite s)
        { m with dl := s.dl + 1, draws := m.draws + 2 })) ∧
    (Memory.wf unitWords (s.voices.get s.vi).units = true → ∀ j, j < ch b * n →
      s.dl + j ≤ s.lines.length → index.toNat + j ≤ s.patch.delayTimes.length →
      (s.dl + j = s.lines.length → exec i s =
        .next (faultEntry (.renderFault .delayLinesExhausted) (commandSite s) (c.after j))) ∧
      (s.dl + j < s.lines.length → index.toNat + j = s.patch.delayTimes.length → exec i s =
        .next (faultEntry (.renderFault .delayTimeIndex) (commandSite s)
          { c.after j with dl := s.dl + j + 1 })))) ∧
  (∀ (pitched : Bool) (pg2 fb damp x out : F32) (index : Nat) (s : State) (entry : Half),
    s.dl < s.lines.length → s.patch.delayTimes[index]? = some entry →
    let d := s.draws
    let plain := addAt (d + 1) (ofInt entry.toNat) (mulAt d (readPort s s.vi s.ui 4) f32767)
    let length := if pitched then
        divAt (d + 3) plain (exp2F (divAt (d + 2) (ofInt (s.voices.get s.vi).note.toNat) f12))
      else plain
    isFinite length = false →
    delayLine pitched pg2 fb damp x out index s = .error (.renderFault .nonFiniteIndex)
      { s with dl := s.dl + 1, draws := d + if pitched then 4 else 2 })

/-! ### The oscillator (48_oscillator.md) -/

/-- R560 to R564, R568, R569: one partial, mono. The increment from transpose, detune and, outside LFO
mode, the note; the accumulator in slot 0; the working phase; the amplitude; for the Gate the smoother
in slot 4 and no waveshaper; the push. A Gate phase that is not finite faults. That the pseudocode of
R562 and R563 stands against the sentences beside it is the model's choice (log entries 24, 25). -/
def Obligations.OscillatorResult : Prop :=
  ∀ (tr de ph co sh ga flags : Byte) (gate : Option Half) (s : State), s.ui < 63 →
    Memory.wf unitWords (s.voices.get s.vi).units = true → flags.toNat % 4 = 0 →
    s.stk.length < stackCap s →
    let m := operandsRead [tr, de, ph, co, sh, ga] (if gate.isSome then 3 else 1) s
    let d := m.draws
    let wave := selectWave flags
    let detune := subAt (d + 1) (mulAt d (readParam m 1) f2) f1
    let pitch := divAt (d + 6) (addAt (d + 5) (mulAt (d + 4) f64
      (subAt (d + 3) (mulAt (d + 2) (readParam m 0) f2) f1)) detune) f12
    let omega := if flags.getLsbD 3 then mulAt (d + 7) (exp2F pitch) cLfo
      else mulAt (d + 9) (exp2F (addAt (d + 8) pitch
        (divAt (d + 7) (ofInt (s.voices.get s.vi).note.toNat) f12))) cAudio
    let e := if flags.getLsbD 3 then d + 8 else d + 10
    let sum := addAt e (readState m s.vi s.ui 0) omega
    let floor := fun k x => if isNaN x then Config.nan k else floorNumber x
    let sv := subAt (e + 4) sum (subAt (e + 3) (floor (e + 2) (addAt (e + 1) sum f1)) f1)
    let offset := addAt (e + 5) sv (readParam m 2)
    let phase := subAt (e + 7) offset (floor (e + 6) offset)
    let t := writeState m s.vi s.ui 0 sv
    let i : Instr := .oscillator false tr de ph co sh ga flags gate
    (wave ≠ .gate →
      let a := waveAmp wave (readParam m 3) phase (e + 8)
      let w := waveshape a.1 (readParam m 4) a.2
      exec i s = .next { t with
        stk := addAt (w.2 + 1) f0 (mulAt w.2 w.1 (readParam m 5)) :: s.stk
        draws := w.2 + 4, ui := s.ui + 1 }) ∧
    (wave = .gate →
      let x := addAt (e + 9) (mulAt (e + 8) phase f16) fHalf
      let a := if (gate.getD 0).getLsbD (truncInt x % 16).toNat then f1 else f0
      let y := addAt (e + 12) a (mulAt (e + 11) dcPole (subAt (e + 10) (readState m s.vi s.ui 4) a))
      (isFinite x = true →
        exec i s = .next { writeState t s.vi s.ui 4 y with
          stk := addAt (e + 14) f0 (mulAt (e + 13) y (readParam m 5)) :: s.stk
          draws := e + 17, ui := s.ui + 1 }) ∧
      (isFinite x = false →
        exec i s = .next (faultEntry (.renderFault .nonFiniteIndex) (commandSite s)
          { t with draws := e + 10 })))

/-- R560, R563, R568, R570: every form of the oscillator, with room for its pushes. It completes,
pushes one value per channel, and changes of voice memory only the slots of its own unit that R111
gives it; or it is a Gate and ends with NonFiniteIndex. -/
def Obligations.OscillatorCompletes : Prop :=
  ∀ (b : Bool) (tr de ph co sh ga flags : Byte) (gate : Option Half) (s : State), s.ui < 63 →
    (∀ v : Fin 32, Memory.wf unitWords (s.voices.get v).units = true) →
    s.stk.length + ch b ≤ stackCap s →
    let m := operandsRead [tr, de, ph, co, sh, ga] (if gate.isSome then 3 else 1) s
    let done := fun t : State =>
      exec (.oscillator b tr de ph co sh ga flags gate) s = .next t ∧
      t = { m with stk := t.stk, voices := t.voices, draws := t.draws, ui := s.ui + 1 } ∧
      t.stk.length = s.stk.length + ch b ∧ t.stk.drop (ch b) = s.stk ∧
      (∀ v key, (v = s.vi → ∀ k, (∃ i j, i < ch b ∧ j ≤ flags.toNat % 4 ∧ k = i + 2 * j) ∨
          (selectWave flags = .gate ∧ ∃ i, i < ch b ∧ k = 4 + i) → key ≠ stateKey s.ui k) →
        readUnit t v key = readUnit m v key)
    (selectWave flags ≠ .gate → ∃ t, done t) ∧
    (selectWave flags = .gate → (∃ t, done t) ∨
      ∃ t, exec (.oscillator b tr de ph co sh ga flags gate) s =
        .next (faultEntry (.renderFault .nonFiniteIndex) (commandSite s) t))

/-- R560, R562 to R564, R568 to R571: the values of every form of the oscillator, with the partials of
`OscPoint`: the detune of channel 0 and its negation for channel 1 (R570), both restarting the phase
offset; the push of channel 0 before channel 1 runs; StackOverflow at the push that finds the stack
full, with the slots written; NonFiniteIndex at the first Gate partial whose step is not finite, with
its accumulator written. The accumulator wraps by the pseudocode of R563 (log entry 25). -/
def Obligations.OscillatorPartials : Prop :=
  ∀ (b : Bool) (tr de ph co sh ga flags : Byte) (gate : Option Half) (s : State), s.ui < 63 →
    let m := operandsRead [tr, de, ph, co, sh, ga] (if gate.isSome then 3 else 1) s
    let d := m.draws
    let n := flags.toNat % 4 + 1
    let g := gate.getD 0
    let detune := subAt (d + 1) (mulAt d (readParam m 1) f2) f1
    let start0 : OscPoint :=
      { state := { m with draws := d + 2 }, detune := detune, phaseParam := readParam m 2, output := f0 }
    let end0 := start0.partials flags g 0 n
    let start1 : OscPoint :=
      { state := { end0.state with stk := end0.output :: s.stk }
        detune := fneg detune, phaseParam := readParam m 2, output := f0 }
    let end1 := start1.partials flags g 1 n
    let runs := fun (i : Nat) (p : OscPoint) (k : Nat) => selectWave flags = .gate → ∀ j, j < k →
      isFinite ((p.partials flags g i j).gateStep flags i j) = true
    let stops := fun (i : Nat) (p : OscPoint) (j : Nat) => selectWave flags = .gate ∧ j < n ∧
      runs i p j ∧ isFinite ((p.partials flags g i j).gateStep flags i j) = false
    let stopped := fun (i : Nat) (p : OscPoint) (j : Nat) =>
      faultEntry (.renderFault .nonFiniteIndex) (commandSite s)
        { (p.partials flags g i j).turned flags i j with
          draws := (p.partials flags g i j).op flags + 10 }
    let i : Bool → Instr := fun b => .oscillator b tr de ph co sh ga flags gate
    (runs 0 start0 n → s.stk.length < stackCap s →
      exec (i false) s = .next { end0.state with stk := end0.output :: s.stk, ui := s.ui + 1 }) ∧
    (runs 0 start0 n → stackCap s ≤ s.stk.length →
      exec (i b) s =
        .next (faultEntry (.renderFault .stackOverflow) (commandSite s) end0.state)) ∧
    (∀ j, stops 0 start0 j → exec (i b) s = .next (stopped 0 start0 j)) ∧
    (runs 0 start0 n → runs 1 start1 n → s.stk.length + 1 < stackCap s →
      exec (i true) s = .next { end1.state with
        stk := end1.output :: end0.output :: s.stk, ui := s.ui + 1 }) ∧
    (runs 0 start0 n → runs 1 start1 n → s.stk.length + 1 = stackCap s →
      exec (i true) s =
        .next (faultEntry (.renderFault .stackOverflow) (commandSite s) end1.state)) ∧
    (runs 0 start0 n → s.stk.length < stackCap s →
      ∀ j, stops 1 start1 j → exec (i true) s = .next (stopped 1 start1 j))

/-- R561, R565, R566, R567: the priority of the waveform bits and the amplitudes of the waveforms
without state. -/
def Obligations.OscillatorWaves : Prop :=
  (∀ flags : Byte,
    selectWave flags =
      if flags.getLsbD 6 then .sine else if flags.getLsbD 5 then .trisaw
      else if flags.getLsbD 4 then .pulse else if flags.getLsbD 2 then .gate else .none) ∧
  ∀ (color phase : F32) (d : Nat),
    (flt phase color = true → (waveAmp .sine color phase d).1 =
      sinF (divAt (d + 1) (mulAt d twoPi phase) color)) ∧
    (flt phase color = false → (waveAmp .sine color phase d).1 = f0) ∧
    (fle color phase = true → (waveAmp .trisaw color phase d).1 =
      subAt (d + 4) (mulAt (d + 3)
        (divAt (d + 2) (subAt d f1 phase) (subAt (d + 1) f1 color)) f2) f1) ∧
    (fle color phase = false → (waveAmp .trisaw color phase d).1 =
      subAt (d + 2) (mulAt (d + 1) (divAt d phase color) f2) f1) ∧
    (waveAmp .pulse color phase d).1 = (if flt phase color then f1 else fNeg1) ∧
    (waveAmp .none color phase d).1 = f0 ∧
    (isNaN phase = true → (waveAmp .sine color phase d).1 = f0 ∧
      (waveAmp .pulse color phase d).1 = fNeg1)

/-! ### The host port (49_host.md) -/

/-- R600, R601, R800: `Create` from the head of the queue. A valid patch leaves the reset state around
it; an invalid one changes nothing but what the host is told. That a patch which fails leaves the
core as it was, and that the registers R800 marks "n/o" keep their values, is the model's choice (log
entries 6, 18). -/
def Obligations.CreateResult : Prop :=
  ∀ (p : BytePatch) (q : List HostCommand) (s : State), s.phase = .idle →
    s.hostQueue = .create p :: q →
    (validate p = none → step s = .next { s with
      hostQueue := q
      patch := p
      randSeed := 1
      globalTime := 0
      outputs := Vector.replicate 8 f0
      voices := Vector.replicate 32 { note := 0, release := false, units := [] }
      lines := List.replicate (requiredLines p)
        { buffer := [], dampState := f0, dcIn := f0, dcFiltState := f0 }
      stk := []
      poisoned := false
      result := some (.loaded none) }) ∧
    (∀ e, validate p = some e →
      step s = .next { s with hostQueue := q, result := some (.loaded (some e)) })

/-- R620: `Update`. An invalid patch changes nothing; a valid one is installed, clears the unit records
of all voices exactly when the commands differ, grows delay memory with zero lines, and clears
`poisoned`; notes, release flags and everything else are kept. That the registers R800 marks "n/o"
(cursors, parameters, Render registers, stack) are among what is kept is the model's choice (log entry
6). -/
def Obligations.UpdateResult : Prop :=
  ∀ (p : BytePatch) (q : List HostCommand) (s : State), s.phase = .idle →
    s.hostQueue = .update p :: q →
    (∀ e, validate p = some e →
      step s = .next { s with hostQueue := q, result := some (.loaded (some e)) }) ∧
    (validate p = none → ∃ t : State, step s = .next t ∧
      t = { s with
        hostQueue := q, patch := p, voices := t.voices, lines := t.lines
        poisoned := false, result := some (.loaded none) } ∧
      t.lines.length = max s.lines.length (requiredLines p) ∧
      (∀ j, j < s.lines.length → t.lines[j]? = s.lines[j]?) ∧
      (∀ j l, s.lines.length ≤ j → t.lines[j]? = some l →
        l = { buffer := [], dampState := f0, dcIn := f0, dcFiltState := f0 }) ∧
      (p.commands = s.patch.commands → t.voices = s.voices) ∧
      (p.commands ≠ s.patch.commands → ∀ v : Fin 32,
        t.voices.get v = { s.voices.get v with units := [] }))

/-- R610, R611: `Trigger` zeroes the record of a voice in 0..31 but for the note, which it sets;
`Release` sets its release flag; every other voice and every other field is kept, a voice outside
0..31 changes nothing, and neither looks at `poisoned`. -/
def Obligations.TriggerReleaseResult : Prop :=
  ∀ (v : Int) (note : Byte) (q : List HostCommand) (s : State), s.phase = .idle →
    (s.hostQueue = .trigger v note :: q → ∃ t : State, step s = .next t ∧
      t = { s with hostQueue := q, voices := t.voices, result := some .silent } ∧
      ∀ w : Fin 32, t.voices.get w =
        if (w.val : Int) = v then { note := note, release := false, units := [] }
        else s.voices.get w) ∧
    (s.hostQueue = .release v :: q → ∃ t : State, step s = .next t ∧
      t = { s with hostQueue := q, voices := t.voices, result := some .silent } ∧
      ∀ w : Fin 32, t.voices.get w =
        if (w.val : Int) = v then { s.voices.get w with release := true } else s.voices.get w)

/-- R602: the five checks of install validation in their order, each in its own words. The fifth: no
stretch of commands without an `advance` is longer than 63. -/
def Obligations.ValidationOrder : Prop :=
  ∀ p : BytePatch,
    let long := 2048 < p.commands.length
    let manyValues := 16384 < p.values.length
    let manyVoices := 32 < p.numVoices
    let unknown := ∃ c ∈ p.commands, 30 < c.toNat / 2
    let manyUnits := ∃ before segment after : List Byte,
      p.commands = before ++ segment ++ after ∧ (∀ c ∈ segment, c.toNat / 2 ≠ 0) ∧
      63 < segment.length
    (validate p = some .commandsTooLong ↔ long) ∧
    (validate p = some .valuesTooLong ↔ ¬ long ∧ manyValues) ∧
    (validate p = some .tooManyVoices ↔ ¬ long ∧ ¬ manyValues ∧ manyVoices) ∧
    (validate p = some .unknownOpcode ↔ ¬ long ∧ ¬ manyValues ∧ ¬ manyVoices ∧ unknown) ∧
    (validate p = some .tooManyUnits ↔
      ¬ long ∧ ¬ manyValues ∧ ¬ manyVoices ∧ ¬ unknown ∧ manyUnits) ∧
    (validate p = none ↔ ¬ long ∧ ¬ manyValues ∧ ¬ manyVoices ∧ ¬ unknown ∧ ¬ manyUnits)

/-- R640, R641, R630, R711: an idle core without a host command keeps all state. A `Render` that is
issued sets the Render registers and the four scratch elements and starts the sample loop; on a
poisoned core it is refused with `(0, 0, 0, E_POISONED)` and runs nothing. That the call's buffers
then stand in the state as they were given, and that the refusal carries no fault record, is the model's
choice (log entries 20, 26). -/
def Obligations.RenderStart : Prop :=
  ∀ s : State, s.phase = .idle →
    (s.hostQueue = [] → step s = .next s) ∧
    (∀ (buffer syncBuffer : List F32) (maxtime : Int) (q : List HostCommand),
      s.hostQueue = .render buffer syncBuffer maxtime :: q →
      (s.poisoned = false → step s = .next { s with
        hostQueue := q
        stk := [f0, f0, f0, f0]
        time := 0
        maxtime := maxtime
        samples := 0
        syncs := 0
        bufPos := 0
        syncPos := 0
        buffer := buffer
        syncBuffer := syncBuffer
        result := none
        phase := .loopTest }) ∧
      (s.poisoned = true → step s = .next { s with
        hostQueue := q, buffer := buffer, syncBuffer := syncBuffer
        result := some (.rendered 0 0 0 .poisoned) }))

/-! ### The sample loop (40_dispatch.md) -/

/-- R400, R401, R630: the test of the sample loop. Without time or without room for a stereo sample the
call returns its counts; otherwise the sequencer registers are reset and a sample step begins, with
its sync record written first when `globalTime` is a multiple of 256, or with a fault that belongs to
no command when the sync buffer has no room for it. -/
def Obligations.LoopTest : Prop :=
  ∀ s : State, s.phase = .loopTest →
    let goesOn := s.time < s.maxtime ∧ s.bufPos + 2 ≤ s.buffer.length
    let due := s.globalTime.toNat % 256 = 0
    let t : State := { s with
      stepStartTime := s.time, stepStartSyncs := s.syncs, vr := s.patch.numVoices, vi := 0
      ui := 0, cc := 0, vc := 0, cci := 0, vci := 0, dl := 0, phase := .sampleStep }
    (¬ goesOn → step s = .next { s with
      phase := .idle, result := some (.rendered s.samples s.syncs s.time .ok) }) ∧
    (goesOn → ¬ due → step s = .next t) ∧
    (goesOn → due → s.syncPos < s.syncBuffer.length → step s = .next { t with
      syncBuffer := s.syncBuffer.set s.syncPos (ofInt s.time)
      syncPos := s.syncPos + 1, syncs := s.syncs + 1 }) ∧
    (goesOn → due → s.syncBuffer.length ≤ s.syncPos →
      step s = .next (faultEntry (.renderFault .syncBufferFull) none t))

/-- R410: the end of a sample step. A depth below 4 and a depth above 4 fault; at depth 4 channels 0
and 1 go to the output buffer and are cleared, and the clocks advance. -/
def Obligations.EndOfStep : Prop :=
  ∀ s : State, s.phase = .sampleStep → s.vr = 0 →
    (s.stk.length < 4 → step s = .next (faultEntry .stackUnderflow none s)) ∧
    (4 < s.stk.length → step s = .next (faultEntry .stackNotEmpty none s)) ∧
    (s.stk.length = 4 → step s = .next { s with
      buffer := (s.buffer.set s.bufPos s.outputs[0]).set (s.bufPos + 1) s.outputs[1]
      bufPos := s.bufPos + 2
      outputs := (s.outputs.set 0 f0).set 1 f0
      samples := s.samples + 1
      time := s.time + 1
      globalTime := s.globalTime + 1
      phase := .loopTest })

/-! ### The whole machine -/

/-- Every step keeps the invariant of the core, `State.Wf`: voice and delay memory in canonical form
(the model's choice of a form, log entry 14), a validated patch, enough delay lines, an odd seed, the
depth 4 at every sample boundary, the cursors in range. -/
def Obligations.StepKeepsWf : Prop :=
  ∀ s t : State, s.Wf → step s = .next t → t.Wf

/-- The machine right after reset is well-formed. Its empty patch and its values where R800 gives none
are the model's choice (log entries 1, 2, 6, 7). -/
def Obligations.ResetWf : Prop := State.reset.Wf

/-- R602, R603, R703, R704: what an installed patch cannot do (a consequence of the invariant in one
step). From a well-formed state a running core
never ends its call with UnitOverflow or InvalidOpcode, and with DelayLinesExhausted only at a `delay`
whose count gives no line: the walk of R603 foresees every line a sample step takes. -/
def Obligations.InstalledPatchFaults : Prop :=
  ∀ s t : State, s.Wf → s.phase ≠ .idle → step s = .next t →
    ∀ n y time e r, t.result = some (.rendered n y time (.faulted e r)) →
      e ≠ .renderFault .unitOverflow ∧ (∀ c, e ≠ .invalidOpcode c) ∧
      (e = .renderFault .delayLinesExhausted →
        ∃ c b t0 t1 t2 t3 t4 index count, s.patch.commands[s.cc]? = some c ∧
          decode c (s.patch.values.drop s.vc) = .instr (.delay b t0 t1 t2 t3 t4 index count) ∧
          delayLineCount count = 0)

/-- R411, R827: a sample step ends. Every command either ends the call with a fault or lowers the work
left, which starts at `NumVoices * (len(Commands) + 1) + len(Commands)`. -/
def Obligations.CommandLowersWork : Prop :=
  ∀ s t : State, s.phase = .sampleStep → s.vr ≠ 0 → s.cc ≤ s.patch.commands.length →
    s.cci ≤ s.patch.commands.length → step s = .next t →
    t.phase = .idle ∨
      (t.phase = .sampleStep ∧ t.cc ≤ t.patch.commands.length ∧
        t.cci ≤ t.patch.commands.length ∧ workLeft t < workLeft s)

/-- R110, R111: who writes voice memory. A step of a running core changes a state slot only of the
executing unit, a port of another unit only where it runs a `send`, and no note and no release flag. -/
def Obligations.UnitMemoryPrivate : Prop :=
  ∀ s t : State, s.Wf → s.phase ≠ .idle → step s = .next t →
    (∀ (v : Fin 32) (u k : Nat), u < 63 → k < 8 → (v ≠ s.vi ∨ u ≠ s.ui) →
      readState t v u k = readState s v u k) ∧
    (∀ (v : Fin 32) (u k : Nat), u < 63 → k < 8 → (v ≠ s.vi ∨ u ≠ s.ui) →
      readPort t v u k ≠ readPort s v u k →
      s.phase = .sampleStep ∧ s.vr ≠ 0 ∧
        ∃ c, s.patch.commands[s.cc]? = some c ∧ opcodeOf c = 23) ∧
    (∀ v : Fin 32, (t.voices.get v).note = (s.voices.get v).note ∧
      (t.voices.get v).release = (s.voices.get v).release)

/-- R100, R106 to R108, R112, R124, R410, R526, R740, R742: who writes the shared state. No step of a
running core changes the installed patch or the host's queue; only `noise` draws from `randSeed`; only
the end of a sample step changes `globalTime`, `samples`, `bufPos` and the output buffer, as R410
gives them; only `delay` writes delay memory, and it alone moves the line cursor, but for its reset
at the loop test; only `out`, `outaux`, `aux`, `in` and the end of a sample step write the bus; only
`speed` and the end of a sample step change `time`; only `sync` and the record at the loop test write
the sync buffer, and only that record counts in `syncs`. -/
def Obligations.SharedStateWriters : Prop :=
  ∀ s t : State, s.phase ≠ .idle → step s = .next t →
    let runs := fun op : Nat => s.phase = .sampleStep ∧ s.vr ≠ 0 ∧
      ∃ c, s.patch.commands[s.cc]? = some c ∧ opcodeOf c = op
    let ends := s.phase = .sampleStep ∧ s.vr = 0 ∧ s.stk.length = 4
    t.patch = s.patch ∧ t.hostQueue = s.hostQueue ∧ t.cfg = s.cfg ∧ t.maxtime = s.maxtime ∧
    (t.randSeed ≠ s.randSeed → runs 25) ∧
    (¬ ends → t.globalTime = s.globalTime ∧ t.samples = s.samples ∧ t.bufPos = s.bufPos ∧
      t.buffer = s.buffer) ∧
    (ends → t.globalTime = s.globalTime + 1 ∧ t.samples = s.samples + 1 ∧ t.time = s.time + 1 ∧
      t.bufPos = s.bufPos + 2 ∧
      t.buffer = (s.buffer.set s.bufPos s.outputs[0]).set (s.bufPos + 1) s.outputs[1] ∧
      t.outputs = (s.outputs.set 0 f0).set 1 f0) ∧
    (t.lines ≠ s.lines → runs 17) ∧
    (t.dl ≠ s.dl → runs 17 ∨ (s.phase = .loopTest ∧ t.dl = 0)) ∧
    (t.outputs ≠ s.outputs → runs 20 ∨ runs 21 ∨ runs 22 ∨ runs 29 ∨ ends) ∧
    (t.time ≠ s.time → runs 19 ∨ ends) ∧
    (t.syncBuffer ≠ s.syncBuffer ∨ t.syncPos ≠ s.syncPos → runs 30 ∨ s.phase = .loopTest) ∧
    (t.syncs ≠ s.syncs → s.phase = .loopTest ∧ t.syncs = s.syncs + 1)

/-- R710, R711: fault entry. A step that poisons the core ends the call and returns the completed
samples, the counts and the time of the start of the sample step, and the fault record. The record
names the command at the cursor, or the end of the command stream, while commands run, and no command
at the loop test and at the end of a sample step. Nothing but a fault poisons; and only a successful
`Update` or `Create` clears the flag. -/
def Obligations.FaultEntry : Prop :=
  ∀ s t : State, step s = .next t →
    (s.poisoned = false → t.poisoned = true →
      s.phase ≠ .idle ∧ t.phase = .idle ∧ t.samples = s.samples ∧ t.buffer = s.buffer ∧
      ∃ e r, t.result =
          some (.rendered t.samples t.stepStartSyncs t.stepStartTime (.faulted e r)) ∧
        r.voice = t.vi.val ∧ r.unit = t.ui ∧ r.time = t.stepStartTime ∧
        (s.phase = .sampleStep → s.vr ≠ 0 → s.cc < s.patch.commands.length →
          r.cmdIndex = some s.cc ∧ r.cmdByte = s.patch.commands[s.cc]?) ∧
        (s.phase = .sampleStep → s.vr ≠ 0 → s.patch.commands.length ≤ s.cc →
          r.cmdIndex = some s.patch.commands.length ∧ r.cmdByte = none) ∧
        (s.phase = .loopTest ∨ s.vr = 0 → r.cmdIndex = none ∧ r.cmdByte = none)) ∧
    (s.phase ≠ .idle → s.poisoned = true → t.poisoned = true) ∧
    (s.phase = .idle → s.poisoned = true → t.poisoned = false →
      ∃ p q, (s.hostQueue = .create p :: q ∨ s.hostQueue = .update p :: q) ∧ validate p = none)

/-! ### Numbers (00_scope.md) -/

/-- R14, R17: the sum, the product and the quotient of two finite values, and `ToF32` of an integer. The
result is finite exactly when the exact result is below the overflow bound, half a unit in the last
place above the largest finite value; and then it is a nearest binary32 value of the exact result: no
finite value `c` is closer, and if one of another value is equally close, bit 0 of the result is 0.
Values are in units of 2^-149, subnormals included; the product is compared in units of 2^-298, the
quotient after multiplying by the divisor. The second part: signs, infinities and NaNs of all values
(IEEE 754 where R14 does not spell it out, log entry 19), and `x + -x` (R420). -/
def Obligations.ArithmeticNearest : Prop :=
  (∀ (d : Nat) (a b c : F32) (n : Int),
    isFinite a = true → isFinite b = true → isFinite c = true →
    let bound : Nat := (2 ^ 25 - 1) * 2 ^ 252
    let nearest := fun (r : F32) (exact unit : Int) =>
      (scaled r * unit - exact).natAbs ≤ (scaled c * unit - exact).natAbs ∧
      (scaled c ≠ scaled r →
        (scaled c * unit - exact).natAbs = (scaled r * unit - exact).natAbs →
        r.getLsbD 0 = false)
    (isFinite (addAt d a b) = true ↔ (scaled a + scaled b).natAbs < bound) ∧
    (isFinite (addAt d a b) = true → nearest (addAt d a b) (scaled a + scaled b) 1) ∧
    (isFinite (mulAt d a b) = true ↔ (scaled a * scaled b).natAbs < bound * 2 ^ 149) ∧
    (isFinite (mulAt d a b) = true → nearest (mulAt d a b) (scaled a * scaled b) (2 ^ 149)) ∧
    (scaled b ≠ 0 →
      (isFinite (divAt d a b) = true ↔
        (scaled a * 2 ^ 149).natAbs < bound * (scaled b).natAbs) ∧
      (isFinite (divAt d a b) = true →
        nearest (divAt d a b) (scaled a * 2 ^ 149) (scaled b))) ∧
    (isFinite (ofInt n) = true ↔ n.natAbs * 2 ^ 149 < bound) ∧
    (isFinite (ofInt n) = true → nearest (ofInt n) (n * 2 ^ 149) 1)) ∧
  (∀ (d : Nat) (a b : F32),
    (isNaN a = true ∨ isNaN b = true →
      isNaN (addAt d a b) = true ∧ isNaN (mulAt d a b) = true ∧ isNaN (divAt d a b) = true) ∧
    (isNaN a = false → isNaN b = false →
      (isNaN (addAt d a b) = true ↔ isInf a = true ∧ isInf b = true ∧ isNeg a ≠ isNeg b) ∧
      (isNaN (mulAt d a b) = true ↔
        isInf a = true ∧ isZero b = true ∨ isZero a = true ∧ isInf b = true) ∧
      (isNaN (divAt d a b) = true ↔
        isInf a = true ∧ isInf b = true ∨ isZero a = true ∧ isZero b = true) ∧
      (isNaN (mulAt d a b) = false → isNeg (mulAt d a b) = (isNeg a != isNeg b)) ∧
      (isNaN (divAt d a b) = false → isNeg (divAt d a b) = (isNeg a != isNeg b)) ∧
      (scaled a + scaled b ≠ 0 → isNaN (addAt d a b) = false →
        isNeg (addAt d a b) = decide (scaled a + scaled b < 0)) ∧
      (isZero a = false → isZero b = true → isInf (divAt d a b) = true)) ∧
    (isFinite a = true → addAt d a (fneg a) = f0))

/-- R22, R304: a parameter byte is exactly its byte over 128, and the signed form of one without
modulation is exact. -/
def Obligations.ParameterExact : Prop :=
  ∀ (b : Byte) (d : Nat),
    scaled (paramByte b) * 128 = b.toNat * 2 ^ 149 ∧
    addAt d (paramByte b) f0 = paramByte b ∧
    scaled (subAt (d + 1) (mulAt d (paramByte b) f2) f1) * 128 =
      ((b.toNat : Int) * 2 - 128) * 2 ^ 149

/-- R21: a draw of `rand` multiplies the seed by 16007 modulo 2^32 and returns the seed over -2^31 as a
signed number, in [-1, 1]; an odd seed stays odd, so it is never zero and the draw is no NaN and no
zero. -/
def Obligations.RandDraw : Prop :=
  ∀ s : State,
    let seed := s.randSeed * 16007
    let r := divAt s.draws (ofInt seed.toInt) fNegTwo31
    rand s = .ok r { s with randSeed := seed, draws := s.draws + 1 } ∧
    seed.toNat = s.randSeed.toNat * 16007 % 2 ^ 32 ∧
    fle fNeg1 r = true ∧ fle r f1 = true ∧
    (s.randSeed.getLsbD 0 = true → seed.getLsbD 0 = true ∧ flt r f0 ≠ flt f0 r)

/-- R19: the waveshaper is its formula in the order of its parentheses; shape 0.5 is the identity on
every finite value whose half is exact (R19 says every finite value; by R14 an odd subnormal's half
rounds, log entry 23); and it keeps 1 and -1 for every shape byte in 1..127. -/
def Obligations.Waveshape : Prop :=
  (∀ (x a : F32) (d : Nat), waveshape x a d =
    (divAt (d + 6) (mulAt d x a) (addAt (d + 5) (subAt (d + 1) f1 a)
      (mulAt (d + 4) (subAt (d + 3) (mulAt (d + 2) f2 a) f1) (fabs x))), d + 7)) ∧
  (∀ (x : F32) (d : Nat), isFinite x = true → magnitude x % 2 = 0 →
    (waveshape x fHalf d).1 = x) ∧
  (∀ (b : Byte) (d : Nat), 1 ≤ b.toNat → b.toNat ≤ 127 →
    (waveshape f1 (paramByte b) d).1 = f1 ∧ (waveshape fNeg1 (paramByte b) d).1 = fNeg1)
end

