-- ==== Sys2Proof/Laws/Binary32.lean ====
section
/-! SUPPORT. The small lemmas of the number format: what the free values are, the fields of a pattern, and
that rounding leaves a value that is a binary32 already as it is.
-/
namespace Sys2Proof.Machine

/-! ### Free values -/

/-- `Exp2F` is `P_EXP2` everywhere (R16). -/
theorem exp2F_eq (x : F32) : exp2F x = (@Config.pExp2 Config.exp2Exists).apply x := by
  simp only [exp2F]
  split
  · rename_i h
    rcases h with h | h
    · rw [h]; exact (@Config.pExp2 Config.exp2Exists).posZero.symm
    · rw [h]; exact (@Config.pExp2 Config.exp2Exists).negZero.symm
  · rfl

/-- `Exp2F` is monotone non-decreasing (R16). -/
theorem exp2F_monotone {x y : F32} (h : fle x y = true) : fle (exp2F x) (exp2F y) = true := by
  rw [exp2F_eq, exp2F_eq]
  exact (@Config.pExp2 Config.exp2Exists).monotone x y h

/-- The pattern of a produced NaN is a NaN encoding (R18). -/
theorem isNaN_nan (n : Nat) : isNaN (Config.nan n) = true := by
  have h := (Config.nanPayload n).isLt
  simp only [isNaN, expField, fracField, Config.nan, BitVec.toNat_ofNat]
  cases Config.nanSign n <;> simp <;> omega

/-! ### NaNs propagate (R14, R18) -/

theorem isNaN_addAt {d : Nat} {a b : F32} (h : isNaN a = true ∨ isNaN b = true) :
    isNaN (addAt d a b) = true := by
  rw [addAt, if_pos (by simpa using h)]
  exact isNaN_nan d

theorem isNaN_mulAt {d : Nat} {a b : F32} (h : isNaN a = true ∨ isNaN b = true) :
    isNaN (mulAt d a b) = true := by
  simp only [mulAt]
  rw [if_pos (by simpa using h)]
  exact isNaN_nan d

theorem isNaN_divAt {d : Nat} {a b : F32} (h : isNaN a = true ∨ isNaN b = true) :
    isNaN (divAt d a b) = true := by
  simp only [divAt]
  rw [if_pos (by simpa using h)]
  exact isNaN_nan d

theorem isNaN_subAt {d : Nat} {a b : F32} (h : isNaN a = true) : isNaN (subAt d a b) = true :=
  isNaN_addAt (.inl h)

/-- A NaN is not finite. -/
theorem isFinite_of_isNaN {x : F32} (h : isNaN x = true) : isFinite x = false := by
  simp only [isNaN, Bool.and_eq_true, beq_iff_eq] at h
  simp [isFinite, h.1]

/-! ### The fields of a pattern -/

theorem fracField_lt (x : F32) : fracField x < 2 ^ 23 := Nat.mod_lt _ (by decide)
theorem expField_lt (x : F32) : expField x < 256 := Nat.mod_lt _ (by decide)

theorem isNeg_eq (x : F32) : isNeg x = decide (2 ^ 31 ≤ x.toNat) := by
  have h := x.isLt
  rw [isNeg, ← BitVec.testBit_toNat, Nat.testBit_eq_decide_div_mod_eq]
  congr 1
  apply propext
  omega

/-- A pattern is its sign, its exponent field and its fraction field. -/
theorem toNat_fields (x : F32) :
    x.toNat = (if isNeg x then 2 ^ 31 else 0) + (expField x * 2 ^ 23 + fracField x) := by
  have h := x.isLt
  rw [isNeg_eq]
  simp only [expField, fracField, decide_eq_true_eq]
  split <;> omega

theorem fields_of_toNat {x : F32} {b : Nat} (hb : b < 2 ^ 31) (neg : Bool)
    (h : x.toNat = (if neg then 2 ^ 31 else 0) + b) :
    isNeg x = neg ∧ expField x = b / 2 ^ 23 ∧ fracField x = b % 2 ^ 23 := by
  refine ⟨?_, ?_, ?_⟩
  · rw [isNeg_eq, h]; cases neg <;> simp; omega
  · rw [expField, h]; cases neg <;> (simp; omega)
  · rw [fracField, h]; cases neg <;> simp; omega

/-! ### Rounding a value that is a binary32 -/

theorem nearestEven_mul (q : Nat) {den : Nat} (h : 0 < den) : nearestEven (q * den) den = q := by
  have h0 : 2 * 0 < den := by omega
  simp only [nearestEven, Nat.mul_mod_left, Nat.mul_div_cancel q h, h0, if_true]

/-- The bits of a finite value are the rounding of its magnitude. -/
theorem roundBits_magnitude {x : F32} (hx : isFinite x = true) {k : Nat} (hk : 0 < k) :
    roundBits (magnitude x * k) k = expField x * 2 ^ 23 + fracField x := by
  have hf := fracField_lt x
  have he : expField x < 255 := by
    have := expField_lt x
    have : expField x ≠ 255 := by simpa [isFinite] using hx
    omega
  simp only [roundBits, Nat.mul_div_cancel _ hk]
  by_cases h0 : expField x = 0
  · have hm : magnitude x = fracField x := by simp [magnitude, h0]
    have hl : Nat.log2 (fracField x) < 23 ∨ fracField x = 0 := by
      rcases Nat.eq_zero_or_pos (fracField x) with h | h
      · exact .inr h
      · exact .inl ((Nat.log2_lt (by omega)).2 hf)
    have hl' : Nat.log2 (fracField x) - 23 = 0 := by
      rcases hl with h | h
      · omega
      · rw [h]; decide
    rw [hm, hl', h0]
    simp only [pow_zero, Nat.mul_one, nearestEven_mul _ hk]
    omega
  · have hm : magnitude x = (2 ^ 23 + fracField x) * 2 ^ (expField x - 1) := by
      simp [magnitude, h0]
    have hl : Nat.log2 (magnitude x) = 23 + (expField x - 1) := by
      rw [hm, Nat.log2_eq_iff (by positivity)]
      constructor
      · rw [pow_add]; exact Nat.mul_le_mul_right _ (by omega)
      · rw [show 23 + (expField x - 1) + 1 = 24 + (expField x - 1) by omega, pow_add]
        exact Nat.mul_lt_mul_of_pos_right (by omega) (by positivity)
    rw [hl, show 23 + (expField x - 1) - 23 = expField x - 1 by omega, hm,
      show (2 ^ 23 + fracField x) * 2 ^ (expField x - 1) * k =
        (2 ^ 23 + fracField x) * (k * 2 ^ (expField x - 1)) by ring,
      nearestEven_mul _ (by positivity)]
    omega

/-- Rounding a finite value gives it back. -/
theorem roundRat_magnitude {x : F32} (hx : isFinite x = true) {k : Nat} (hk : 0 < k) :
    roundRat (isNeg x) (magnitude x * k) k = x := by
  apply BitVec.eq_of_toNat_eq
  rw [roundRat, roundBits_magnitude hx hk, ← toNat_fields, BitVec.toNat_ofNat]
  exact Nat.mod_eq_of_lt x.isLt

theorem natAbs_scaled (x : F32) : (scaled x).natAbs = magnitude x := by
  simp only [scaled]; split <;> simp

/-- The sign and the magnitude of a value that is not zero. -/
theorem scaled_neg_iff {x : F32} (h : scaled x ≠ 0) : decide (scaled x < 0) = isNeg x := by
  simp only [scaled] at h ⊢
  rcases Bool.eq_false_or_eq_true (isNeg x) with hn | hn
  · simp only [hn, if_true] at h ⊢
    exact decide_eq_true (by omega)
  · simp only [hn, Bool.false_eq_true, if_false] at h ⊢
    exact decide_eq_false (by omega)

/-! ### Small integers are exact -/

theorem magnitude_ofInt_nat {n : Nat} (h : n < 2 ^ 24) :
    isFinite (ofInt n) = true ∧ isNeg (ofInt n) = false ∧ magnitude (ofInt n) = n * 2 ^ 149 := by
  by_cases h0 : n = 0
  · have hz : ofInt 0 = f0 := by decide
    have h1 : isFinite f0 = true ∧ isNeg f0 = false ∧ magnitude f0 = 0 := by decide
    simpa [h0, hz] using h1
  · have hr : ofInt n = roundRat false (n * 2 ^ 149) 1 := by
      have hn : ¬ (n : Int) < 0 := by omega
      simp only [ofInt, hn, decide_false, Int.natAbs_natCast]
    have hpos : 0 < n := by omega
    obtain ⟨e, he, h1, h2⟩ : ∃ e, e ≤ 23 ∧ 2 ^ e ≤ n ∧ n < 2 ^ (e + 1) :=
      ⟨Nat.log2 n, by
        have := (Nat.log2_lt (by omega : n ≠ 0)).2 h
        omega, Nat.log2_self_le (by omega), Nat.lt_log2_self⟩
    have hl : Nat.log2 (n * 2 ^ 149) = e + 149 := by
      rw [Nat.log2_eq_iff (by positivity)]
      refine ⟨?_, ?_⟩
      · rw [pow_add]; exact Nat.mul_le_mul_right _ h1
      · rw [show e + 149 + 1 = e + 1 + 149 by omega, pow_add]
        exact Nat.mul_lt_mul_of_pos_right h2 (by positivity)
    have hb : roundBits (n * 2 ^ 149) 1 = (e + 126) * 2 ^ 23 + n * 2 ^ (23 - e) := by
      have hsplit : n * 2 ^ 149 = n * 2 ^ (23 - e) * 2 ^ (e + 126) := by
        rw [Nat.mul_assoc, ← pow_add, show 23 - e + (e + 126) = 149 by omega]
      have hq : n * 2 ^ (23 - e) < 2 ^ 24 := by
        calc n * 2 ^ (23 - e) < 2 ^ (e + 1) * 2 ^ (23 - e) :=
              Nat.mul_lt_mul_of_pos_right h2 (by positivity)
          _ = 2 ^ 24 := by rw [← pow_add, show e + 1 + (23 - e) = 24 by omega]
      simp only [roundBits, Nat.div_one, hl, show e + 149 - 23 = e + 126 by omega, Nat.one_mul]
      rw [hsplit, nearestEven_mul _ (by positivity)]
      omega
    have hlo : 2 ^ 23 ≤ n * 2 ^ (23 - e) := by
      calc 2 ^ 23 = 2 ^ e * 2 ^ (23 - e) := by rw [← pow_add, show e + (23 - e) = 23 by omega]
        _ ≤ n * 2 ^ (23 - e) := Nat.mul_le_mul_right _ h1
    have hhi : n * 2 ^ (23 - e) < 2 ^ 24 := by
      calc n * 2 ^ (23 - e) < 2 ^ (e + 1) * 2 ^ (23 - e) :=
            Nat.mul_lt_mul_of_pos_right h2 (by positivity)
        _ = 2 ^ 24 := by rw [← pow_add, show e + 1 + (23 - e) = 24 by omega]
    generalize hq : n * 2 ^ (23 - e) = q at hb hlo hhi
    have ht : (ofInt n).toNat = (if false then 2 ^ 31 else 0) + ((e + 126) * 2 ^ 23 + q) := by
      rw [hr, roundRat, hb, BitVec.toNat_ofNat]
      simp
      omega
    obtain ⟨f1, f2, f3⟩ := fields_of_toNat (by omega) false ht
    have he' : expField (ofInt n) = e + 127 := by rw [f2]; omega
    have hf' : fracField (ofInt n) = q - 2 ^ 23 := by rw [f3]; omega
    refine ⟨?_, f1, ?_⟩
    · simp only [isFinite, he', bne_iff_ne, ne_eq]; omega
    · rw [magnitude, if_neg (by omega), he', hf', show 2 ^ 23 + (q - 2 ^ 23) = q by omega, ← hq,
        Nat.mul_assoc, ← pow_add, show 23 - e + (e + 127 - 1) = 149 by omega]

end Sys2Proof.Machine
end

