-- ==== Sys2Proof/Laws/Decode.lean ====
section
/-! SUPPORT. The small lemmas of the encoding's parts: the two fields of a command byte, and the two
bytes of a 16-bit operand.
-/
namespace Sys2Proof

@[simp] theorem opcodeOf_commandByte {n : Nat} (h : n < 31) (s : Bool) :
    opcodeOf (commandByte n s) = n := by
  cases s <;> interval_cases n <;> decide

@[simp] theorem stereoOf_commandByte {n : Nat} (h : n < 31) (s : Bool) :
    stereoOf (commandByte n s) = s := by
  cases s <;> interval_cases n <;> decide

/-- The two fields make the command byte again. -/
theorem commandByte_fields (c : Byte) : commandByte (opcodeOf c) (stereoOf c) = c := by
  revert c
  decide

theorem opcodeOf_lt (c : Byte) : opcodeOf c < 128 := by
  simp only [opcodeOf]; omega

@[simp] theorem halfOf_lowByte_highByte (h : Half) : halfOf (lowByte h) (highByte h) = h := by
  apply BitVec.eq_of_toNat_eq
  simp only [halfOf, lowByte, highByte, BitVec.toNat_append, BitVec.extractLsb'_toNat,
    Nat.shiftLeft_eq, Nat.shiftRight_eq_div_pow]
  rw [← Nat.shiftLeft_eq, ← Nat.shiftLeft_add_eq_or_of_lt (by omega), Nat.shiftLeft_eq]
  omega

@[simp] theorem lowByte_halfOf (lo hi : Byte) : lowByte (halfOf lo hi) = lo := by
  apply BitVec.eq_of_getLsbD_eq
  intro i hi'
  simp only [halfOf, lowByte, BitVec.getLsbD_extractLsb', BitVec.getLsbD_append]
  simp [hi']

@[simp] theorem highByte_halfOf (lo hi : Byte) : highByte (halfOf lo hi) = hi := by
  apply BitVec.eq_of_getLsbD_eq
  intro i hi'
  simp only [halfOf, highByte, BitVec.getLsbD_extractLsb', BitVec.getLsbD_append]
  simp [hi']

end Sys2Proof
end

