-- ==== Sys2Proof/Laws/State.lean ====
section
/-! SUPPORT. What each named update of the state leaves in each field: one lemma per field per update,
true by unfolding the record update, so that no later proof unfolds one.
-/
namespace Sys2Proof.Machine

variable (s : State)

/-! ### `writeUnit` -/

@[simp] theorem writeUnit_cfg (v : Fin 32) (key : Nat) (x : F32) :
    (writeUnit s v key x).cfg = s.cfg := rfl
@[simp] theorem writeUnit_patch (v : Fin 32) (key : Nat) (x : F32) :
    (writeUnit s v key x).patch = s.patch := rfl
@[simp] theorem writeUnit_randSeed (v : Fin 32) (key : Nat) (x : F32) :
    (writeUnit s v key x).randSeed = s.randSeed := rfl
@[simp] theorem writeUnit_globalTime (v : Fin 32) (key : Nat) (x : F32) :
    (writeUnit s v key x).globalTime = s.globalTime := rfl
@[simp] theorem writeUnit_outputs (v : Fin 32) (key : Nat) (x : F32) :
    (writeUnit s v key x).outputs = s.outputs := rfl
@[simp] theorem writeUnit_lines (v : Fin 32) (key : Nat) (x : F32) :
    (writeUnit s v key x).lines = s.lines := rfl
@[simp] theorem writeUnit_stk (v : Fin 32) (key : Nat) (x : F32) :
    (writeUnit s v key x).stk = s.stk := rfl
@[simp] theorem writeUnit_poisoned (v : Fin 32) (key : Nat) (x : F32) :
    (writeUnit s v key x).poisoned = s.poisoned := rfl
@[simp] theorem writeUnit_cc (v : Fin 32) (key : Nat) (x : F32) :
    (writeUnit s v key x).cc = s.cc := rfl
@[simp] theorem writeUnit_vc (v : Fin 32) (key : Nat) (x : F32) :
    (writeUnit s v key x).vc = s.vc := rfl
@[simp] theorem writeUnit_cci (v : Fin 32) (key : Nat) (x : F32) :
    (writeUnit s v key x).cci = s.cci := rfl
@[simp] theorem writeUnit_vci (v : Fin 32) (key : Nat) (x : F32) :
    (writeUnit s v key x).vci = s.vci := rfl
@[simp] theorem writeUnit_vi (v : Fin 32) (key : Nat) (x : F32) :
    (writeUnit s v key x).vi = s.vi := rfl
@[simp] theorem writeUnit_vr (v : Fin 32) (key : Nat) (x : F32) :
    (writeUnit s v key x).vr = s.vr := rfl
@[simp] theorem writeUnit_ui (v : Fin 32) (key : Nat) (x : F32) :
    (writeUnit s v key x).ui = s.ui := rfl
@[simp] theorem writeUnit_dl (v : Fin 32) (key : Nat) (x : F32) :
    (writeUnit s v key x).dl = s.dl := rfl
@[simp] theorem writeUnit_params (v : Fin 32) (key : Nat) (x : F32) :
    (writeUnit s v key x).params = s.params := rfl
@[simp] theorem writeUnit_time (v : Fin 32) (key : Nat) (x : F32) :
    (writeUnit s v key x).time = s.time := rfl
@[simp] theorem writeUnit_maxtime (v : Fin 32) (key : Nat) (x : F32) :
    (writeUnit s v key x).maxtime = s.maxtime := rfl
@[simp] theorem writeUnit_samples (v : Fin 32) (key : Nat) (x : F32) :
    (writeUnit s v key x).samples = s.samples := rfl
@[simp] theorem writeUnit_syncs (v : Fin 32) (key : Nat) (x : F32) :
    (writeUnit s v key x).syncs = s.syncs := rfl
@[simp] theorem writeUnit_syncPos (v : Fin 32) (key : Nat) (x : F32) :
    (writeUnit s v key x).syncPos = s.syncPos := rfl
@[simp] theorem writeUnit_bufPos (v : Fin 32) (key : Nat) (x : F32) :
    (writeUnit s v key x).bufPos = s.bufPos := rfl
@[simp] theorem writeUnit_stepStartTime (v : Fin 32) (key : Nat) (x : F32) :
    (writeUnit s v key x).stepStartTime = s.stepStartTime := rfl
@[simp] theorem writeUnit_stepStartSyncs (v : Fin 32) (key : Nat) (x : F32) :
    (writeUnit s v key x).stepStartSyncs = s.stepStartSyncs := rfl
@[simp] theorem writeUnit_buffer (v : Fin 32) (key : Nat) (x : F32) :
    (writeUnit s v key x).buffer = s.buffer := rfl
@[simp] theorem writeUnit_syncBuffer (v : Fin 32) (key : Nat) (x : F32) :
    (writeUnit s v key x).syncBuffer = s.syncBuffer := rfl
@[simp] theorem writeUnit_phase (v : Fin 32) (key : Nat) (x : F32) :
    (writeUnit s v key x).phase = s.phase := rfl
@[simp] theorem writeUnit_hostQueue (v : Fin 32) (key : Nat) (x : F32) :
    (writeUnit s v key x).hostQueue = s.hostQueue := rfl
@[simp] theorem writeUnit_result (v : Fin 32) (key : Nat) (x : F32) :
    (writeUnit s v key x).result = s.result := rfl
@[simp] theorem writeUnit_draws (v : Fin 32) (key : Nat) (x : F32) :
    (writeUnit s v key x).draws = s.draws := rfl
@[simp] theorem writeUnit_voices (v : Fin 32) (key : Nat) (x : F32) :
    (writeUnit s v key x).voices = writeWord s.voices v key x := rfl

/-! ### `writeState` -/

@[simp] theorem writeState_cfg (v : Fin 32) (u k : Nat) (x : F32) :
    (writeState s v u k x).cfg = s.cfg := rfl
@[simp] theorem writeState_patch (v : Fin 32) (u k : Nat) (x : F32) :
    (writeState s v u k x).patch = s.patch := rfl
@[simp] theorem writeState_randSeed (v : Fin 32) (u k : Nat) (x : F32) :
    (writeState s v u k x).randSeed = s.randSeed := rfl
@[simp] theorem writeState_globalTime (v : Fin 32) (u k : Nat) (x : F32) :
    (writeState s v u k x).globalTime = s.globalTime := rfl
@[simp] theorem writeState_outputs (v : Fin 32) (u k : Nat) (x : F32) :
    (writeState s v u k x).outputs = s.outputs := rfl
@[simp] theorem writeState_lines (v : Fin 32) (u k : Nat) (x : F32) :
    (writeState s v u k x).lines = s.lines := rfl
@[simp] theorem writeState_stk (v : Fin 32) (u k : Nat) (x : F32) :
    (writeState s v u k x).stk = s.stk := rfl
@[simp] theorem writeState_poisoned (v : Fin 32) (u k : Nat) (x : F32) :
    (writeState s v u k x).poisoned = s.poisoned := rfl
@[simp] theorem writeState_cc (v : Fin 32) (u k : Nat) (x : F32) :
    (writeState s v u k x).cc = s.cc := rfl
@[simp] theorem writeState_vc (v : Fin 32) (u k : Nat) (x : F32) :
    (writeState s v u k x).vc = s.vc := rfl
@[simp] theorem writeState_cci (v : Fin 32) (u k : Nat) (x : F32) :
    (writeState s v u k x).cci = s.cci := rfl
@[simp] theorem writeState_vci (v : Fin 32) (u k : Nat) (x : F32) :
    (writeState s v u k x).vci = s.vci := rfl
@[simp] theorem writeState_vi (v : Fin 32) (u k : Nat) (x : F32) :
    (writeState s v u k x).vi = s.vi := rfl
@[simp] theorem writeState_vr (v : Fin 32) (u k : Nat) (x : F32) :
    (writeState s v u k x).vr = s.vr := rfl
@[simp] theorem writeState_ui (v : Fin 32) (u k : Nat) (x : F32) :
    (writeState s v u k x).ui = s.ui := rfl
@[simp] theorem writeState_dl (v : Fin 32) (u k : Nat) (x : F32) :
    (writeState s v u k x).dl = s.dl := rfl
@[simp] theorem writeState_params (v : Fin 32) (u k : Nat) (x : F32) :
    (writeState s v u k x).params = s.params := rfl
@[simp] theorem writeState_time (v : Fin 32) (u k : Nat) (x : F32) :
    (writeState s v u k x).time = s.time := rfl
@[simp] theorem writeState_maxtime (v : Fin 32) (u k : Nat) (x : F32) :
    (writeState s v u k x).maxtime = s.maxtime := rfl
@[simp] theorem writeState_samples (v : Fin 32) (u k : Nat) (x : F32) :
    (writeState s v u k x).samples = s.samples := rfl
@[simp] theorem writeState_syncs (v : Fin 32) (u k : Nat) (x : F32) :
    (writeState s v u k x).syncs = s.syncs := rfl
@[simp] theorem writeState_syncPos (v : Fin 32) (u k : Nat) (x : F32) :
    (writeState s v u k x).syncPos = s.syncPos := rfl
@[simp] theorem writeState_bufPos (v : Fin 32) (u k : Nat) (x : F32) :
    (writeState s v u k x).bufPos = s.bufPos := rfl
@[simp] theorem writeState_stepStartTime (v : Fin 32) (u k : Nat) (x : F32) :
    (writeState s v u k x).stepStartTime = s.stepStartTime := rfl
@[simp] theorem writeState_stepStartSyncs (v : Fin 32) (u k : Nat) (x : F32) :
    (writeState s v u k x).stepStartSyncs = s.stepStartSyncs := rfl
@[simp] theorem writeState_buffer (v : Fin 32) (u k : Nat) (x : F32) :
    (writeState s v u k x).buffer = s.buffer := rfl
@[simp] theorem writeState_syncBuffer (v : Fin 32) (u k : Nat) (x : F32) :
    (writeState s v u k x).syncBuffer = s.syncBuffer := rfl
@[simp] theorem writeState_phase (v : Fin 32) (u k : Nat) (x : F32) :
    (writeState s v u k x).phase = s.phase := rfl
@[simp] theorem writeState_hostQueue (v : Fin 32) (u k : Nat) (x : F32) :
    (writeState s v u k x).hostQueue = s.hostQueue := rfl
@[simp] theorem writeState_result (v : Fin 32) (u k : Nat) (x : F32) :
    (writeState s v u k x).result = s.result := rfl
@[simp] theorem writeState_draws (v : Fin 32) (u k : Nat) (x : F32) :
    (writeState s v u k x).draws = s.draws := rfl
@[simp] theorem writeState_voices (v : Fin 32) (u k : Nat) (x : F32) :
    (writeState s v u k x).voices = writeWord s.voices v (stateKey u k) x := rfl

/-! ### `writePort` -/

@[simp] theorem writePort_cfg (v : Fin 32) (u k : Nat) (x : F32) :
    (writePort s v u k x).cfg = s.cfg := rfl
@[simp] theorem writePort_patch (v : Fin 32) (u k : Nat) (x : F32) :
    (writePort s v u k x).patch = s.patch := rfl
@[simp] theorem writePort_randSeed (v : Fin 32) (u k : Nat) (x : F32) :
    (writePort s v u k x).randSeed = s.randSeed := rfl
@[simp] theorem writePort_globalTime (v : Fin 32) (u k : Nat) (x : F32) :
    (writePort s v u k x).globalTime = s.globalTime := rfl
@[simp] theorem writePort_outputs (v : Fin 32) (u k : Nat) (x : F32) :
    (writePort s v u k x).outputs = s.outputs := rfl
@[simp] theorem writePort_lines (v : Fin 32) (u k : Nat) (x : F32) :
    (writePort s v u k x).lines = s.lines := rfl
@[simp] theorem writePort_stk (v : Fin 32) (u k : Nat) (x : F32) :
    (writePort s v u k x).stk = s.stk := rfl
@[simp] theorem writePort_poisoned (v : Fin 32) (u k : Nat) (x : F32) :
    (writePort s v u k x).poisoned = s.poisoned := rfl
@[simp] theorem writePort_cc (v : Fin 32) (u k : Nat) (x : F32) :
    (writePort s v u k x).cc = s.cc := rfl
@[simp] theorem writePort_vc (v : Fin 32) (u k : Nat) (x : F32) :
    (writePort s v u k x).vc = s.vc := rfl
@[simp] theorem writePort_cci (v : Fin 32) (u k : Nat) (x : F32) :
    (writePort s v u k x).cci = s.cci := rfl
@[simp] theorem writePort_vci (v : Fin 32) (u k : Nat) (x : F32) :
    (writePort s v u k x).vci = s.vci := rfl
@[simp] theorem writePort_vi (v : Fin 32) (u k : Nat) (x : F32) :
    (writePort s v u k x).vi = s.vi := rfl
@[simp] theorem writePort_vr (v : Fin 32) (u k : Nat) (x : F32) :
    (writePort s v u k x).vr = s.vr := rfl
@[simp] theorem writePort_ui (v : Fin 32) (u k : Nat) (x : F32) :
    (writePort s v u k x).ui = s.ui := rfl
@[simp] theorem writePort_dl (v : Fin 32) (u k : Nat) (x : F32) :
    (writePort s v u k x).dl = s.dl := rfl
@[simp] theorem writePort_params (v : Fin 32) (u k : Nat) (x : F32) :
    (writePort s v u k x).params = s.params := rfl
@[simp] theorem writePort_time (v : Fin 32) (u k : Nat) (x : F32) :
    (writePort s v u k x).time = s.time := rfl
@[simp] theorem writePort_maxtime (v : Fin 32) (u k : Nat) (x : F32) :
    (writePort s v u k x).maxtime = s.maxtime := rfl
@[simp] theorem writePort_samples (v : Fin 32) (u k : Nat) (x : F32) :
    (writePort s v u k x).samples = s.samples := rfl
@[simp] theorem writePort_syncs (v : Fin 32) (u k : Nat) (x : F32) :
    (writePort s v u k x).syncs = s.syncs := rfl
@[simp] theorem writePort_syncPos (v : Fin 32) (u k : Nat) (x : F32) :
    (writePort s v u k x).syncPos = s.syncPos := rfl
@[simp] theorem writePort_bufPos (v : Fin 32) (u k : Nat) (x : F32) :
    (writePort s v u k x).bufPos = s.bufPos := rfl
@[simp] theorem writePort_stepStartTime (v : Fin 32) (u k : Nat) (x : F32) :
    (writePort s v u k x).stepStartTime = s.stepStartTime := rfl
@[simp] theorem writePort_stepStartSyncs (v : Fin 32) (u k : Nat) (x : F32) :
    (writePort s v u k x).stepStartSyncs = s.stepStartSyncs := rfl
@[simp] theorem writePort_buffer (v : Fin 32) (u k : Nat) (x : F32) :
    (writePort s v u k x).buffer = s.buffer := rfl
@[simp] theorem writePort_syncBuffer (v : Fin 32) (u k : Nat) (x : F32) :
    (writePort s v u k x).syncBuffer = s.syncBuffer := rfl
@[simp] theorem writePort_phase (v : Fin 32) (u k : Nat) (x : F32) :
    (writePort s v u k x).phase = s.phase := rfl
@[simp] theorem writePort_hostQueue (v : Fin 32) (u k : Nat) (x : F32) :
    (writePort s v u k x).hostQueue = s.hostQueue := rfl
@[simp] theorem writePort_result (v : Fin 32) (u k : Nat) (x : F32) :
    (writePort s v u k x).result = s.result := rfl
@[simp] theorem writePort_draws (v : Fin 32) (u k : Nat) (x : F32) :
    (writePort s v u k x).draws = s.draws := rfl
@[simp] theorem writePort_voices (v : Fin 32) (u k : Nat) (x : F32) :
    (writePort s v u k x).voices = writeWord s.voices v (portKey u k) x := rfl

/-! ### `writeOutput` -/

@[simp] theorem writeOutput_cfg (c : Nat) (x : F32) :
    (writeOutput s c x).cfg = s.cfg := rfl
@[simp] theorem writeOutput_patch (c : Nat) (x : F32) :
    (writeOutput s c x).patch = s.patch := rfl
@[simp] theorem writeOutput_randSeed (c : Nat) (x : F32) :
    (writeOutput s c x).randSeed = s.randSeed := rfl
@[simp] theorem writeOutput_globalTime (c : Nat) (x : F32) :
    (writeOutput s c x).globalTime = s.globalTime := rfl
@[simp] theorem writeOutput_voices (c : Nat) (x : F32) :
    (writeOutput s c x).voices = s.voices := rfl
@[simp] theorem writeOutput_lines (c : Nat) (x : F32) :
    (writeOutput s c x).lines = s.lines := rfl
@[simp] theorem writeOutput_stk (c : Nat) (x : F32) :
    (writeOutput s c x).stk = s.stk := rfl
@[simp] theorem writeOutput_poisoned (c : Nat) (x : F32) :
    (writeOutput s c x).poisoned = s.poisoned := rfl
@[simp] theorem writeOutput_cc (c : Nat) (x : F32) :
    (writeOutput s c x).cc = s.cc := rfl
@[simp] theorem writeOutput_vc (c : Nat) (x : F32) :
    (writeOutput s c x).vc = s.vc := rfl
@[simp] theorem writeOutput_cci (c : Nat) (x : F32) :
    (writeOutput s c x).cci = s.cci := rfl
@[simp] theorem writeOutput_vci (c : Nat) (x : F32) :
    (writeOutput s c x).vci = s.vci := rfl
@[simp] theorem writeOutput_vi (c : Nat) (x : F32) :
    (writeOutput s c x).vi = s.vi := rfl
@[simp] theorem writeOutput_vr (c : Nat) (x : F32) :
    (writeOutput s c x).vr = s.vr := rfl
@[simp] theorem writeOutput_ui (c : Nat) (x : F32) :
    (writeOutput s c x).ui = s.ui := rfl
@[simp] theorem writeOutput_dl (c : Nat) (x : F32) :
    (writeOutput s c x).dl = s.dl := rfl
@[simp] theorem writeOutput_params (c : Nat) (x : F32) :
    (writeOutput s c x).params = s.params := rfl
@[simp] theorem writeOutput_time (c : Nat) (x : F32) :
    (writeOutput s c x).time = s.time := rfl
@[simp] theorem writeOutput_maxtime (c : Nat) (x : F32) :
    (writeOutput s c x).maxtime = s.maxtime := rfl
@[simp] theorem writeOutput_samples (c : Nat) (x : F32) :
    (writeOutput s c x).samples = s.samples := rfl
@[simp] theorem writeOutput_syncs (c : Nat) (x : F32) :
    (writeOutput s c x).syncs = s.syncs := rfl
@[simp] theorem writeOutput_syncPos (c : Nat) (x : F32) :
    (writeOutput s c x).syncPos = s.syncPos := rfl
@[simp] theorem writeOutput_bufPos (c : Nat) (x : F32) :
    (writeOutput s c x).bufPos = s.bufPos := rfl
@[simp] theorem writeOutput_stepStartTime (c : Nat) (x : F32) :
    (writeOutput s c x).stepStartTime = s.stepStartTime := rfl
@[simp] theorem writeOutput_stepStartSyncs (c : Nat) (x : F32) :
    (writeOutput s c x).stepStartSyncs = s.stepStartSyncs := rfl
@[simp] theorem writeOutput_buffer (c : Nat) (x : F32) :
    (writeOutput s c x).buffer = s.buffer := rfl
@[simp] theorem writeOutput_syncBuffer (c : Nat) (x : F32) :
    (writeOutput s c x).syncBuffer = s.syncBuffer := rfl
@[simp] theorem writeOutput_phase (c : Nat) (x : F32) :
    (writeOutput s c x).phase = s.phase := rfl
@[simp] theorem writeOutput_hostQueue (c : Nat) (x : F32) :
    (writeOutput s c x).hostQueue = s.hostQueue := rfl
@[simp] theorem writeOutput_result (c : Nat) (x : F32) :
    (writeOutput s c x).result = s.result := rfl
@[simp] theorem writeOutput_draws (c : Nat) (x : F32) :
    (writeOutput s c x).draws = s.draws := rfl

/-! ### `writeLine` -/

@[simp] theorem writeLine_cfg (d : Nat) (l : DelayLine) :
    (writeLine s d l).cfg = s.cfg := rfl
@[simp] theorem writeLine_patch (d : Nat) (l : DelayLine) :
    (writeLine s d l).patch = s.patch := rfl
@[simp] theorem writeLine_randSeed (d : Nat) (l : DelayLine) :
    (writeLine s d l).randSeed = s.randSeed := rfl
@[simp] theorem writeLine_globalTime (d : Nat) (l : DelayLine) :
    (writeLine s d l).globalTime = s.globalTime := rfl
@[simp] theorem writeLine_outputs (d : Nat) (l : DelayLine) :
    (writeLine s d l).outputs = s.outputs := rfl
@[simp] theorem writeLine_voices (d : Nat) (l : DelayLine) :
    (writeLine s d l).voices = s.voices := rfl
@[simp] theorem writeLine_stk (d : Nat) (l : DelayLine) :
    (writeLine s d l).stk = s.stk := rfl
@[simp] theorem writeLine_poisoned (d : Nat) (l : DelayLine) :
    (writeLine s d l).poisoned = s.poisoned := rfl
@[simp] theorem writeLine_cc (d : Nat) (l : DelayLine) :
    (writeLine s d l).cc = s.cc := rfl
@[simp] theorem writeLine_vc (d : Nat) (l : DelayLine) :
    (writeLine s d l).vc = s.vc := rfl
@[simp] theorem writeLine_cci (d : Nat) (l : DelayLine) :
    (writeLine s d l).cci = s.cci := rfl
@[simp] theorem writeLine_vci (d : Nat) (l : DelayLine) :
    (writeLine s d l).vci = s.vci := rfl
@[simp] theorem writeLine_vi (d : Nat) (l : DelayLine) :
    (writeLine s d l).vi = s.vi := rfl
@[simp] theorem writeLine_vr (d : Nat) (l : DelayLine) :
    (writeLine s d l).vr = s.vr := rfl
@[simp] theorem writeLine_ui (d : Nat) (l : DelayLine) :
    (writeLine s d l).ui = s.ui := rfl
@[simp] theorem writeLine_dl (d : Nat) (l : DelayLine) :
    (writeLine s d l).dl = s.dl := rfl
@[simp] theorem writeLine_params (d : Nat) (l : DelayLine) :
    (writeLine s d l).params = s.params := rfl
@[simp] theorem writeLine_time (d : Nat) (l : DelayLine) :
    (writeLine s d l).time = s.time := rfl
@[simp] theorem writeLine_maxtime (d : Nat) (l : DelayLine) :
    (writeLine s d l).maxtime = s.maxtime := rfl
@[simp] theorem writeLine_samples (d : Nat) (l : DelayLine) :
    (writeLine s d l).samples = s.samples := rfl
@[simp] theorem writeLine_syncs (d : Nat) (l : DelayLine) :
    (writeLine s d l).syncs = s.syncs := rfl
@[simp] theorem writeLine_syncPos (d : Nat) (l : DelayLine) :
    (writeLine s d l).syncPos = s.syncPos := rfl
@[simp] theorem writeLine_bufPos (d : Nat) (l : DelayLine) :
    (writeLine s d l).bufPos = s.bufPos := rfl
@[simp] theorem writeLine_stepStartTime (d : Nat) (l : DelayLine) :
    (writeLine s d l).stepStartTime = s.stepStartTime := rfl
@[simp] theorem writeLine_stepStartSyncs (d : Nat) (l : DelayLine) :
    (writeLine s d l).stepStartSyncs = s.stepStartSyncs := rfl
@[simp] theorem writeLine_buffer (d : Nat) (l : DelayLine) :
    (writeLine s d l).buffer = s.buffer := rfl
@[simp] theorem writeLine_syncBuffer (d : Nat) (l : DelayLine) :
    (writeLine s d l).syncBuffer = s.syncBuffer := rfl
@[simp] theorem writeLine_phase (d : Nat) (l : DelayLine) :
    (writeLine s d l).phase = s.phase := rfl
@[simp] theorem writeLine_hostQueue (d : Nat) (l : DelayLine) :
    (writeLine s d l).hostQueue = s.hostQueue := rfl
@[simp] theorem writeLine_result (d : Nat) (l : DelayLine) :
    (writeLine s d l).result = s.result := rfl
@[simp] theorem writeLine_draws (d : Nat) (l : DelayLine) :
    (writeLine s d l).draws = s.draws := rfl

/-! ### `readExtras` -/

@[simp] theorem readExtras_cfg (n : Nat) :
    (readExtras n s).cfg = s.cfg := rfl
@[simp] theorem readExtras_patch (n : Nat) :
    (readExtras n s).patch = s.patch := rfl
@[simp] theorem readExtras_randSeed (n : Nat) :
    (readExtras n s).randSeed = s.randSeed := rfl
@[simp] theorem readExtras_globalTime (n : Nat) :
    (readExtras n s).globalTime = s.globalTime := rfl
@[simp] theorem readExtras_outputs (n : Nat) :
    (readExtras n s).outputs = s.outputs := rfl
@[simp] theorem readExtras_voices (n : Nat) :
    (readExtras n s).voices = s.voices := rfl
@[simp] theorem readExtras_lines (n : Nat) :
    (readExtras n s).lines = s.lines := rfl
@[simp] theorem readExtras_stk (n : Nat) :
    (readExtras n s).stk = s.stk := rfl
@[simp] theorem readExtras_poisoned (n : Nat) :
    (readExtras n s).poisoned = s.poisoned := rfl
@[simp] theorem readExtras_cc (n : Nat) :
    (readExtras n s).cc = s.cc := rfl
@[simp] theorem readExtras_cci (n : Nat) :
    (readExtras n s).cci = s.cci := rfl
@[simp] theorem readExtras_vci (n : Nat) :
    (readExtras n s).vci = s.vci := rfl
@[simp] theorem readExtras_vi (n : Nat) :
    (readExtras n s).vi = s.vi := rfl
@[simp] theorem readExtras_vr (n : Nat) :
    (readExtras n s).vr = s.vr := rfl
@[simp] theorem readExtras_ui (n : Nat) :
    (readExtras n s).ui = s.ui := rfl
@[simp] theorem readExtras_dl (n : Nat) :
    (readExtras n s).dl = s.dl := rfl
@[simp] theorem readExtras_params (n : Nat) :
    (readExtras n s).params = s.params := rfl
@[simp] theorem readExtras_time (n : Nat) :
    (readExtras n s).time = s.time := rfl
@[simp] theorem readExtras_maxtime (n : Nat) :
    (readExtras n s).maxtime = s.maxtime := rfl
@[simp] theorem readExtras_samples (n : Nat) :
    (readExtras n s).samples = s.samples := rfl
@[simp] theorem readExtras_syncs (n : Nat) :
    (readExtras n s).syncs = s.syncs := rfl
@[simp] theorem readExtras_syncPos (n : Nat) :
    (readExtras n s).syncPos = s.syncPos := rfl
@[simp] theorem readExtras_bufPos (n : Nat) :
    (readExtras n s).bufPos = s.bufPos := rfl
@[simp] theorem readExtras_stepStartTime (n : Nat) :
    (readExtras n s).stepStartTime = s.stepStartTime := rfl
@[simp] theorem readExtras_stepStartSyncs (n : Nat) :
    (readExtras n s).stepStartSyncs = s.stepStartSyncs := rfl
@[simp] theorem readExtras_buffer (n : Nat) :
    (readExtras n s).buffer = s.buffer := rfl
@[simp] theorem readExtras_syncBuffer (n : Nat) :
    (readExtras n s).syncBuffer = s.syncBuffer := rfl
@[simp] theorem readExtras_phase (n : Nat) :
    (readExtras n s).phase = s.phase := rfl
@[simp] theorem readExtras_hostQueue (n : Nat) :
    (readExtras n s).hostQueue = s.hostQueue := rfl
@[simp] theorem readExtras_result (n : Nat) :
    (readExtras n s).result = s.result := rfl
@[simp] theorem readExtras_draws (n : Nat) :
    (readExtras n s).draws = s.draws := rfl
@[simp] theorem readExtras_vc (n : Nat) : (readExtras n s).vc = s.vc + n := rfl

/-! ### `fetched` -/

@[simp] theorem fetched_cfg :
    (fetched s).cfg = s.cfg := rfl
@[simp] theorem fetched_patch :
    (fetched s).patch = s.patch := rfl
@[simp] theorem fetched_randSeed :
    (fetched s).randSeed = s.randSeed := rfl
@[simp] theorem fetched_globalTime :
    (fetched s).globalTime = s.globalTime := rfl
@[simp] theorem fetched_outputs :
    (fetched s).outputs = s.outputs := rfl
@[simp] theorem fetched_voices :
    (fetched s).voices = s.voices := rfl
@[simp] theorem fetched_lines :
    (fetched s).lines = s.lines := rfl
@[simp] theorem fetched_stk :
    (fetched s).stk = s.stk := rfl
@[simp] theorem fetched_poisoned :
    (fetched s).poisoned = s.poisoned := rfl
@[simp] theorem fetched_vc :
    (fetched s).vc = s.vc := rfl
@[simp] theorem fetched_cci :
    (fetched s).cci = s.cci := rfl
@[simp] theorem fetched_vci :
    (fetched s).vci = s.vci := rfl
@[simp] theorem fetched_vi :
    (fetched s).vi = s.vi := rfl
@[simp] theorem fetched_vr :
    (fetched s).vr = s.vr := rfl
@[simp] theorem fetched_ui :
    (fetched s).ui = s.ui := rfl
@[simp] theorem fetched_dl :
    (fetched s).dl = s.dl := rfl
@[simp] theorem fetched_params :
    (fetched s).params = s.params := rfl
@[simp] theorem fetched_time :
    (fetched s).time = s.time := rfl
@[simp] theorem fetched_maxtime :
    (fetched s).maxtime = s.maxtime := rfl
@[simp] theorem fetched_samples :
    (fetched s).samples = s.samples := rfl
@[simp] theorem fetched_syncs :
    (fetched s).syncs = s.syncs := rfl
@[simp] theorem fetched_syncPos :
    (fetched s).syncPos = s.syncPos := rfl
@[simp] theorem fetched_bufPos :
    (fetched s).bufPos = s.bufPos := rfl
@[simp] theorem fetched_stepStartTime :
    (fetched s).stepStartTime = s.stepStartTime := rfl
@[simp] theorem fetched_stepStartSyncs :
    (fetched s).stepStartSyncs = s.stepStartSyncs := rfl
@[simp] theorem fetched_buffer :
    (fetched s).buffer = s.buffer := rfl
@[simp] theorem fetched_syncBuffer :
    (fetched s).syncBuffer = s.syncBuffer := rfl
@[simp] theorem fetched_phase :
    (fetched s).phase = s.phase := rfl
@[simp] theorem fetched_hostQueue :
    (fetched s).hostQueue = s.hostQueue := rfl
@[simp] theorem fetched_result :
    (fetched s).result = s.result := rfl
@[simp] theorem fetched_draws :
    (fetched s).draws = s.draws := rfl
@[simp] theorem fetched_cc : (fetched s).cc = s.cc + 1 := rfl

/-! ### `recover` -/

@[simp] theorem recover_cfg :
    (recover s).cfg = s.cfg := rfl
@[simp] theorem recover_patch :
    (recover s).patch = s.patch := rfl
@[simp] theorem recover_randSeed :
    (recover s).randSeed = s.randSeed := rfl
@[simp] theorem recover_globalTime :
    (recover s).globalTime = s.globalTime := rfl
@[simp] theorem recover_outputs :
    (recover s).outputs = s.outputs := rfl
@[simp] theorem recover_voices :
    (recover s).voices = s.voices := rfl
@[simp] theorem recover_lines :
    (recover s).lines = s.lines := rfl
@[simp] theorem recover_stk :
    (recover s).stk = s.stk := rfl
@[simp] theorem recover_cc :
    (recover s).cc = s.cc := rfl
@[simp] theorem recover_vc :
    (recover s).vc = s.vc := rfl
@[simp] theorem recover_cci :
    (recover s).cci = s.cci := rfl
@[simp] theorem recover_vci :
    (recover s).vci = s.vci := rfl
@[simp] theorem recover_vi :
    (recover s).vi = s.vi := rfl
@[simp] theorem recover_vr :
    (recover s).vr = s.vr := rfl
@[simp] theorem recover_ui :
    (recover s).ui = s.ui := rfl
@[simp] theorem recover_dl :
    (recover s).dl = s.dl := rfl
@[simp] theorem recover_params :
    (recover s).params = s.params := rfl
@[simp] theorem recover_time :
    (recover s).time = s.time := rfl
@[simp] theorem recover_maxtime :
    (recover s).maxtime = s.maxtime := rfl
@[simp] theorem recover_samples :
    (recover s).samples = s.samples := rfl
@[simp] theorem recover_syncs :
    (recover s).syncs = s.syncs := rfl
@[simp] theorem recover_syncPos :
    (recover s).syncPos = s.syncPos := rfl
@[simp] theorem recover_bufPos :
    (recover s).bufPos = s.bufPos := rfl
@[simp] theorem recover_stepStartTime :
    (recover s).stepStartTime = s.stepStartTime := rfl
@[simp] theorem recover_stepStartSyncs :
    (recover s).stepStartSyncs = s.stepStartSyncs := rfl
@[simp] theorem recover_buffer :
    (recover s).buffer = s.buffer := rfl
@[simp] theorem recover_syncBuffer :
    (recover s).syncBuffer = s.syncBuffer := rfl
@[simp] theorem recover_phase :
    (recover s).phase = s.phase := rfl
@[simp] theorem recover_hostQueue :
    (recover s).hostQueue = s.hostQueue := rfl
@[simp] theorem recover_result :
    (recover s).result = s.result := rfl
@[simp] theorem recover_draws :
    (recover s).draws = s.draws := rfl
@[simp] theorem recover_poisoned : (recover s).poisoned = false := rfl

/-! ### `faultEntry` -/

@[simp] theorem faultEntry_cfg (e : RenderError) (site : Option Nat) :
    (faultEntry e site s).cfg = s.cfg := rfl
@[simp] theorem faultEntry_patch (e : RenderError) (site : Option Nat) :
    (faultEntry e site s).patch = s.patch := rfl
@[simp] theorem faultEntry_randSeed (e : RenderError) (site : Option Nat) :
    (faultEntry e site s).randSeed = s.randSeed := rfl
@[simp] theorem faultEntry_globalTime (e : RenderError) (site : Option Nat) :
    (faultEntry e site s).globalTime = s.globalTime := rfl
@[simp] theorem faultEntry_outputs (e : RenderError) (site : Option Nat) :
    (faultEntry e site s).outputs = s.outputs := rfl
@[simp] theorem faultEntry_voices (e : RenderError) (site : Option Nat) :
    (faultEntry e site s).voices = s.voices := rfl
@[simp] theorem faultEntry_lines (e : RenderError) (site : Option Nat) :
    (faultEntry e site s).lines = s.lines := rfl
@[simp] theorem faultEntry_stk (e : RenderError) (site : Option Nat) :
    (faultEntry e site s).stk = s.stk := rfl
@[simp] theorem faultEntry_cc (e : RenderError) (site : Option Nat) :
    (faultEntry e site s).cc = s.cc := rfl
@[simp] theorem faultEntry_vc (e : RenderError) (site : Option Nat) :
    (faultEntry e site s).vc = s.vc := rfl
@[simp] theorem faultEntry_cci (e : RenderError) (site : Option Nat) :
    (faultEntry e site s).cci = s.cci := rfl
@[simp] theorem faultEntry_vci (e : RenderError) (site : Option Nat) :
    (faultEntry e site s).vci = s.vci := rfl
@[simp] theorem faultEntry_vi (e : RenderError) (site : Option Nat) :
    (faultEntry e site s).vi = s.vi := rfl
@[simp] theorem faultEntry_vr (e : RenderError) (site : Option Nat) :
    (faultEntry e site s).vr = s.vr := rfl
@[simp] theorem faultEntry_ui (e : RenderError) (site : Option Nat) :
    (faultEntry e site s).ui = s.ui := rfl
@[simp] theorem faultEntry_dl (e : RenderError) (site : Option Nat) :
    (faultEntry e site s).dl = s.dl := rfl
@[simp] theorem faultEntry_params (e : RenderError) (site : Option Nat) :
    (faultEntry e site s).params = s.params := rfl
@[simp] theorem faultEntry_time (e : RenderError) (site : Option Nat) :
    (faultEntry e site s).time = s.time := rfl
@[simp] theorem faultEntry_maxtime (e : RenderError) (site : Option Nat) :
    (faultEntry e site s).maxtime = s.maxtime := rfl
@[simp] theorem faultEntry_samples (e : RenderError) (site : Option Nat) :
    (faultEntry e site s).samples = s.samples := rfl
@[simp] theorem faultEntry_syncs (e : RenderError) (site : Option Nat) :
    (faultEntry e site s).syncs = s.syncs := rfl
@[simp] theorem faultEntry_syncPos (e : RenderError) (site : Option Nat) :
    (faultEntry e site s).syncPos = s.syncPos := rfl
@[simp] theorem faultEntry_bufPos (e : RenderError) (site : Option Nat) :
    (faultEntry e site s).bufPos = s.bufPos := rfl
@[simp] theorem faultEntry_stepStartTime (e : RenderError) (site : Option Nat) :
    (faultEntry e site s).stepStartTime = s.stepStartTime := rfl
@[simp] theorem faultEntry_stepStartSyncs (e : RenderError) (site : Option Nat) :
    (faultEntry e site s).stepStartSyncs = s.stepStartSyncs := rfl
@[simp] theorem faultEntry_buffer (e : RenderError) (site : Option Nat) :
    (faultEntry e site s).buffer = s.buffer := rfl
@[simp] theorem faultEntry_syncBuffer (e : RenderError) (site : Option Nat) :
    (faultEntry e site s).syncBuffer = s.syncBuffer := rfl
@[simp] theorem faultEntry_hostQueue (e : RenderError) (site : Option Nat) :
    (faultEntry e site s).hostQueue = s.hostQueue := rfl
@[simp] theorem faultEntry_draws (e : RenderError) (site : Option Nat) :
    (faultEntry e site s).draws = s.draws := rfl
@[simp] theorem faultEntry_poisoned (e : RenderError) (site : Option Nat) :
    (faultEntry e site s).poisoned = true := rfl
@[simp] theorem faultEntry_phase (e : RenderError) (site : Option Nat) :
    (faultEntry e site s).phase = .idle := rfl
@[simp] theorem faultEntry_result (e : RenderError) (site : Option Nat) :
    (faultEntry e site s).result = some (.rendered s.samples s.stepStartSyncs s.stepStartTime
      (.faulted e (faultRecord site s))) := rfl

/-! ### `materialiseOne` -/

@[simp] theorem materialiseOne_cfg (i : Nat) (b : Byte) :
    (materialiseOne i b s).cfg = s.cfg := rfl
@[simp] theorem materialiseOne_patch (i : Nat) (b : Byte) :
    (materialiseOne i b s).patch = s.patch := rfl
@[simp] theorem materialiseOne_randSeed (i : Nat) (b : Byte) :
    (materialiseOne i b s).randSeed = s.randSeed := rfl
@[simp] theorem materialiseOne_globalTime (i : Nat) (b : Byte) :
    (materialiseOne i b s).globalTime = s.globalTime := rfl
@[simp] theorem materialiseOne_outputs (i : Nat) (b : Byte) :
    (materialiseOne i b s).outputs = s.outputs := rfl
@[simp] theorem materialiseOne_lines (i : Nat) (b : Byte) :
    (materialiseOne i b s).lines = s.lines := rfl
@[simp] theorem materialiseOne_stk (i : Nat) (b : Byte) :
    (materialiseOne i b s).stk = s.stk := rfl
@[simp] theorem materialiseOne_poisoned (i : Nat) (b : Byte) :
    (materialiseOne i b s).poisoned = s.poisoned := rfl
@[simp] theorem materialiseOne_cc (i : Nat) (b : Byte) :
    (materialiseOne i b s).cc = s.cc := rfl
@[simp] theorem materialiseOne_vc (i : Nat) (b : Byte) :
    (materialiseOne i b s).vc = s.vc := rfl
@[simp] theorem materialiseOne_cci (i : Nat) (b : Byte) :
    (materialiseOne i b s).cci = s.cci := rfl
@[simp] theorem materialiseOne_vci (i : Nat) (b : Byte) :
    (materialiseOne i b s).vci = s.vci := rfl
@[simp] theorem materialiseOne_vi (i : Nat) (b : Byte) :
    (materialiseOne i b s).vi = s.vi := rfl
@[simp] theorem materialiseOne_vr (i : Nat) (b : Byte) :
    (materialiseOne i b s).vr = s.vr := rfl
@[simp] theorem materialiseOne_ui (i : Nat) (b : Byte) :
    (materialiseOne i b s).ui = s.ui := rfl
@[simp] theorem materialiseOne_dl (i : Nat) (b : Byte) :
    (materialiseOne i b s).dl = s.dl := rfl
@[simp] theorem materialiseOne_time (i : Nat) (b : Byte) :
    (materialiseOne i b s).time = s.time := rfl
@[simp] theorem materialiseOne_maxtime (i : Nat) (b : Byte) :
    (materialiseOne i b s).maxtime = s.maxtime := rfl
@[simp] theorem materialiseOne_samples (i : Nat) (b : Byte) :
    (materialiseOne i b s).samples = s.samples := rfl
@[simp] theorem materialiseOne_syncs (i : Nat) (b : Byte) :
    (materialiseOne i b s).syncs = s.syncs := rfl
@[simp] theorem materialiseOne_syncPos (i : Nat) (b : Byte) :
    (materialiseOne i b s).syncPos = s.syncPos := rfl
@[simp] theorem materialiseOne_bufPos (i : Nat) (b : Byte) :
    (materialiseOne i b s).bufPos = s.bufPos := rfl
@[simp] theorem materialiseOne_stepStartTime (i : Nat) (b : Byte) :
    (materialiseOne i b s).stepStartTime = s.stepStartTime := rfl
@[simp] theorem materialiseOne_stepStartSyncs (i : Nat) (b : Byte) :
    (materialiseOne i b s).stepStartSyncs = s.stepStartSyncs := rfl
@[simp] theorem materialiseOne_buffer (i : Nat) (b : Byte) :
    (materialiseOne i b s).buffer = s.buffer := rfl
@[simp] theorem materialiseOne_syncBuffer (i : Nat) (b : Byte) :
    (materialiseOne i b s).syncBuffer = s.syncBuffer := rfl
@[simp] theorem materialiseOne_phase (i : Nat) (b : Byte) :
    (materialiseOne i b s).phase = s.phase := rfl
@[simp] theorem materialiseOne_hostQueue (i : Nat) (b : Byte) :
    (materialiseOne i b s).hostQueue = s.hostQueue := rfl
@[simp] theorem materialiseOne_result (i : Nat) (b : Byte) :
    (materialiseOne i b s).result = s.result := rfl
@[simp] theorem materialiseOne_draws (i : Nat) (b : Byte) :
    (materialiseOne i b s).draws = s.draws + 1 := rfl

/-! ### `materialise` and `operandsRead` -/

/-- Materialisation changes the parameters, the unit words and the draw counter, and nothing else. -/
theorem materialiseFrom_frame (ts : List Byte) : ∀ (i : Nat) (s : State),
    materialiseFrom i ts s = { s with
      params := (materialiseFrom i ts s).params
      voices := (materialiseFrom i ts s).voices
      draws := s.draws + ts.length } := by
  induction ts with
  | nil => intro i s; rfl
  | cons b bs ih =>
    intro i s
    have h := ih (i + 1) (materialiseOne i b s)
    simp only [materialiseFrom]
    rw [h]
    simp only [materialiseOne, writePort, writeUnit, List.length_cons, State.mk.injEq, true_and]
    omega

/-- `operandsRead` moves the value cursor past the operand group and materialises; nothing else. -/
theorem operandsRead_frame (ts : List Byte) (n : Nat) (s : State) :
    operandsRead ts n s = { s with
      params := (operandsRead ts n s).params
      voices := (operandsRead ts n s).voices
      vc := s.vc + ts.length + n
      draws := s.draws + ts.length } := by
  have h := materialiseFrom_frame ts 0 s
  simp only [operandsRead, materialise, readExtras]
  rw [h]

/-- A command without operands starts its handler in the state it was fetched in. -/
@[simp] theorem operandsRead_nil : operandsRead [] 0 s = s := rfl

@[simp] theorem operandsRead_cfg (ts : List Byte) (n : Nat) :
    (operandsRead ts n s).cfg = s.cfg := by rw [operandsRead_frame]
@[simp] theorem operandsRead_patch (ts : List Byte) (n : Nat) :
    (operandsRead ts n s).patch = s.patch := by rw [operandsRead_frame]
@[simp] theorem operandsRead_randSeed (ts : List Byte) (n : Nat) :
    (operandsRead ts n s).randSeed = s.randSeed := by rw [operandsRead_frame]
@[simp] theorem operandsRead_globalTime (ts : List Byte) (n : Nat) :
    (operandsRead ts n s).globalTime = s.globalTime := by rw [operandsRead_frame]
@[simp] theorem operandsRead_outputs (ts : List Byte) (n : Nat) :
    (operandsRead ts n s).outputs = s.outputs := by rw [operandsRead_frame]
@[simp] theorem operandsRead_lines (ts : List Byte) (n : Nat) :
    (operandsRead ts n s).lines = s.lines := by rw [operandsRead_frame]
@[simp] theorem operandsRead_stk (ts : List Byte) (n : Nat) :
    (operandsRead ts n s).stk = s.stk := by rw [operandsRead_frame]
@[simp] theorem operandsRead_poisoned (ts : List Byte) (n : Nat) :
    (operandsRead ts n s).poisoned = s.poisoned := by rw [operandsRead_frame]
@[simp] theorem operandsRead_cc (ts : List Byte) (n : Nat) :
    (operandsRead ts n s).cc = s.cc := by rw [operandsRead_frame]
@[simp] theorem operandsRead_cci (ts : List Byte) (n : Nat) :
    (operandsRead ts n s).cci = s.cci := by rw [operandsRead_frame]
@[simp] theorem operandsRead_vci (ts : List Byte) (n : Nat) :
    (operandsRead ts n s).vci = s.vci := by rw [operandsRead_frame]
@[simp] theorem operandsRead_vi (ts : List Byte) (n : Nat) :
    (operandsRead ts n s).vi = s.vi := by rw [operandsRead_frame]
@[simp] theorem operandsRead_vr (ts : List Byte) (n : Nat) :
    (operandsRead ts n s).vr = s.vr := by rw [operandsRead_frame]
@[simp] theorem operandsRead_ui (ts : List Byte) (n : Nat) :
    (operandsRead ts n s).ui = s.ui := by rw [operandsRead_frame]
@[simp] theorem operandsRead_dl (ts : List Byte) (n : Nat) :
    (operandsRead ts n s).dl = s.dl := by rw [operandsRead_frame]
@[simp] theorem operandsRead_time (ts : List Byte) (n : Nat) :
    (operandsRead ts n s).time = s.time := by rw [operandsRead_frame]
@[simp] theorem operandsRead_maxtime (ts : List Byte) (n : Nat) :
    (operandsRead ts n s).maxtime = s.maxtime := by rw [operandsRead_frame]
@[simp] theorem operandsRead_samples (ts : List Byte) (n : Nat) :
    (operandsRead ts n s).samples = s.samples := by rw [operandsRead_frame]
@[simp] theorem operandsRead_syncs (ts : List Byte) (n : Nat) :
    (operandsRead ts n s).syncs = s.syncs := by rw [operandsRead_frame]
@[simp] theorem operandsRead_syncPos (ts : List Byte) (n : Nat) :
    (operandsRead ts n s).syncPos = s.syncPos := by rw [operandsRead_frame]
@[simp] theorem operandsRead_bufPos (ts : List Byte) (n : Nat) :
    (operandsRead ts n s).bufPos = s.bufPos := by rw [operandsRead_frame]
@[simp] theorem operandsRead_stepStartTime (ts : List Byte) (n : Nat) :
    (operandsRead ts n s).stepStartTime = s.stepStartTime := by rw [operandsRead_frame]
@[simp] theorem operandsRead_stepStartSyncs (ts : List Byte) (n : Nat) :
    (operandsRead ts n s).stepStartSyncs = s.stepStartSyncs := by rw [operandsRead_frame]
@[simp] theorem operandsRead_buffer (ts : List Byte) (n : Nat) :
    (operandsRead ts n s).buffer = s.buffer := by rw [operandsRead_frame]
@[simp] theorem operandsRead_syncBuffer (ts : List Byte) (n : Nat) :
    (operandsRead ts n s).syncBuffer = s.syncBuffer := by rw [operandsRead_frame]
@[simp] theorem operandsRead_phase (ts : List Byte) (n : Nat) :
    (operandsRead ts n s).phase = s.phase := by rw [operandsRead_frame]
@[simp] theorem operandsRead_hostQueue (ts : List Byte) (n : Nat) :
    (operandsRead ts n s).hostQueue = s.hostQueue := by rw [operandsRead_frame]
@[simp] theorem operandsRead_result (ts : List Byte) (n : Nat) :
    (operandsRead ts n s).result = s.result := by rw [operandsRead_frame]
@[simp] theorem operandsRead_vc (ts : List Byte) (n : Nat) :
    (operandsRead ts n s).vc = s.vc + ts.length + n := by rw [operandsRead_frame]
@[simp] theorem operandsRead_draws (ts : List Byte) (n : Nat) :
    (operandsRead ts n s).draws = s.draws + ts.length := by rw [operandsRead_frame]

end Sys2Proof.Machine
end

