-- ==== Sys2Proof/Laws/Memory.lean ====
section
/-! SUPPORT. The laws of a word space and of the accesses built on it: a read after a write to the same
word gives the value written, a write leaves every other word alone, every write keeps the canonical
form, and in that form equal contents are equal data.
-/
namespace Sys2Proof.Machine

/-! ### One word space -/

/-- The lower bound of a canonical list: every listed index is above it. -/
def Memory.above : Option Nat → Nat → Prop
  | none, _ => True
  | some l, a => l < a

theorem Memory.wfFrom_cons {size : Nat} {lo : Option Nat} {a : Nat} {x : F32} {m : Memory} :
    Memory.wfFrom size lo ((a, x) :: m) = true ↔
      Memory.above lo a ∧ a < size ∧ x ≠ f0 ∧ Memory.wfFrom size (some a) m = true := by
  cases lo <;> simp [Memory.wfFrom, Memory.above, and_assoc]

theorem Memory.wfFrom_weaken {size : Nat} {l a : Nat} (h : a ≤ l) :
    ∀ {m : Memory}, Memory.wfFrom size (some l) m = true → Memory.wfFrom size (some a) m = true
  | [], _ => rfl
  | (b, y) :: m, hm => by
    rw [Memory.wfFrom_cons] at hm ⊢
    exact ⟨lt_of_le_of_lt h hm.1, hm.2⟩

/-- Below the lower bound nothing is listed. -/
theorem Memory.read_of_le {size l a : Nat} (h : a ≤ l) :
    ∀ {m : Memory}, Memory.wfFrom size (some l) m = true → Memory.read m a = f0
  | [], _ => rfl
  | (b, y) :: m, hm => by
    have hb : l < b := (Memory.wfFrom_cons.1 hm).1
    have h1 : a ≠ b := by omega
    have h2 : a < b := by omega
    simp [Memory.read, h1, h2]

/-- A read after a write to the same word gives the value written. -/
theorem Memory.read_write_same {size : Nat} (a : Nat) (x : F32) :
    ∀ {lo : Option Nat} {m : Memory}, Memory.wfFrom size lo m = true →
      Memory.read (Memory.write m a x) a = x
  | _, [], _ => by
    simp only [Memory.write]
    split
    · simp_all [Memory.read]
    · simp [Memory.read]
  | _, (b, y) :: m, hm => by
    have hm' := (Memory.wfFrom_cons.1 hm).2.2.2
    rcases lt_trichotomy a b with h | h | h
    · have hne : a ≠ b := by omega
      by_cases hx : x = f0 <;> simp [Memory.write, Memory.read, h, hne, hx]
    · subst h
      by_cases hx : x = f0
      · simp [Memory.write, hx, Memory.read_of_le (Nat.le_refl a) hm']
      · simp [Memory.write, Memory.read, hx]
    · have h1 : ¬ a < b := by omega
      have h2 : a ≠ b := by omega
      simp [Memory.write, Memory.read, h1, h2, Memory.read_write_same a x hm']

/-- A write leaves every other word alone. -/
theorem Memory.read_write_other {size : Nat} {a c : Nat} (x : F32) (hc : c ≠ a) :
    ∀ {lo : Option Nat} {m : Memory}, Memory.wfFrom size lo m = true →
      Memory.read (Memory.write m a x) c = Memory.read m c
  | _, [], _ => by
    simp only [Memory.write]
    split <;> simp [Memory.read, hc]
  | _, (b, y) :: m, hm => by
    have hm' := (Memory.wfFrom_cons.1 hm).2.2.2
    rcases lt_trichotomy a b with h | h | h
    · by_cases hx : x = f0
      · simp [Memory.write, h, hx]
      · simp only [Memory.write, h, hx, if_true, if_false, Memory.read, hc]
        by_cases hca : c < a
        · have h1 : c ≠ b := by omega
          have h2 : c < b := by omega
          simp [hca, h1, h2]
        · simp [hca]
    · subst h
      by_cases hx : x = f0
      · simp only [Memory.write, hx, lt_irrefl, if_true, if_false, Memory.read, hc]
        by_cases hca : c < a
        · simp [hca, Memory.read_of_le (Nat.le_of_lt hca) hm']
        · simp [hca]
      · simp [Memory.write, Memory.read, hx, hc]
    · have h1 : ¬ a < b := by omega
      have h2 : a ≠ b := by omega
      simp only [Memory.write, h1, h2, if_false, Memory.read, Memory.read_write_other x hc hm']

/-- A write inside the space keeps the canonical form. -/
theorem Memory.wfFrom_write {size : Nat} {a : Nat} (x : F32) (ha : a < size) :
    ∀ {lo : Option Nat} {m : Memory}, Memory.above lo a → Memory.wfFrom size lo m = true →
      Memory.wfFrom size lo (Memory.write m a x) = true
  | lo, [], hlo, _ => by
    by_cases hx : x = f0
    · simp [Memory.write, hx, Memory.wfFrom]
    · simp only [Memory.write, hx, if_false]
      exact Memory.wfFrom_cons.2 ⟨hlo, ha, hx, rfl⟩
  | lo, (b, y) :: m, hlo, hm => by
    obtain ⟨hb, hbs, hy, hm'⟩ := Memory.wfFrom_cons.1 hm
    rcases lt_trichotomy a b with h | h | h
    · by_cases hx : x = f0
      · simpa [Memory.write, h, hx] using hm
      · simp only [Memory.write, h, hx, if_true, if_false]
        exact Memory.wfFrom_cons.2 ⟨hlo, ha, hx, Memory.wfFrom_cons.2 ⟨h, hbs, hy, hm'⟩⟩
    · subst h
      by_cases hx : x = f0
      · simp only [Memory.write, hx, lt_irrefl, if_true, if_false]
        cases lo with
        | none => cases m with
          | nil => rfl
          | cons c m =>
            obtain ⟨_, h2⟩ := Memory.wfFrom_cons.1 hm'
            exact Memory.wfFrom_cons.2 ⟨trivial, h2⟩
        | some l => exact Memory.wfFrom_weaken (Nat.le_of_lt hb) hm'
      · simp only [Memory.write, hx, lt_irrefl, if_true, if_false]
        exact Memory.wfFrom_cons.2 ⟨hb, ha, hx, hm'⟩
    · have h1 : ¬ a < b := by omega
      have h2 : a ≠ b := by omega
      simp only [Memory.write, h1, h2, if_false]
      exact Memory.wfFrom_cons.2 ⟨hb, hbs, hy, Memory.wfFrom_write x ha h hm'⟩

theorem Memory.wf_write {size a : Nat} (x : F32) {m : Memory} (ha : a < size)
    (hm : Memory.wf size m = true) : Memory.wf size (Memory.write m a x) = true :=
  Memory.wfFrom_write x ha trivial hm

/-- In the canonical form equal contents are equal data. -/
theorem Memory.ext_of_read {size : Nat} : ∀ {lo : Option Nat} {m n : Memory},
    Memory.wfFrom size lo m = true → Memory.wfFrom size lo n = true →
    (∀ a, Memory.read m a = Memory.read n a) → m = n
  | _, [], [], _, _, _ => rfl
  | _, [], (b, y) :: n, _, hn, h => by
    have := h b
    simp [Memory.read] at this
    exact absurd this.symm (Memory.wfFrom_cons.1 hn).2.2.1
  | _, (b, y) :: m, [], hm, _, h => by
    have := h b
    simp [Memory.read] at this
    exact absurd this (Memory.wfFrom_cons.1 hm).2.2.1
  | _, (b, y) :: m, (c, z) :: n, hm, hn, h => by
    obtain ⟨_, _, hy, hm'⟩ := Memory.wfFrom_cons.1 hm
    obtain ⟨_, _, hz, hn'⟩ := Memory.wfFrom_cons.1 hn
    rcases lt_trichotomy b c with hbc | hbc | hbc
    · have := h b
      have h1 : b ≠ c := by omega
      simp [Memory.read, hbc, h1] at this
      exact absurd this hy
    · subst hbc
      have hyz : y = z := by simpa [Memory.read] using h b
      subst hyz
      have hmn : m = n := by
        refine Memory.ext_of_read hm' hn' fun a => ?_
        rcases Nat.lt_or_ge b a with hab | hab
        · have h1 : a ≠ b := by omega
          have h2 : ¬ a < b := by omega
          simpa [Memory.read, h1, h2] using h a
        · rw [Memory.read_of_le hab hm', Memory.read_of_le hab hn']
      rw [hmn]
    · have := h c
      have h1 : c ≠ b := by omega
      simp [Memory.read, hbc, h1] at this
      exact absurd this.symm hz

/-! ### Voice memory -/

/-- Every voice's words are in canonical form. -/
def VoicesWf (m : Vector Voice 32) : Prop :=
  ∀ v : Fin 32, Memory.wf unitWords (m.get v).units = true

theorem get_writeWord_same (m : Vector Voice 32) (v : Fin 32) (key : Nat) (x : F32) :
    (writeWord m v key x).get v =
      { m.get v with units := Memory.write (m.get v).units key x } := by
  simp [writeWord, Vector.get_eq_getElem]

theorem get_writeWord_other (m : Vector Voice 32) {v w : Fin 32} (key : Nat) (x : F32)
    (h : w ≠ v) : (writeWord m v key x).get w = m.get w := by
  have hv : v.val ≠ w.val := fun e => h (Fin.ext e.symm)
  simp [writeWord, Vector.get_eq_getElem, Vector.getElem_set_ne, hv]

theorem readWord_writeWord_same {m : Vector Voice 32} {v : Fin 32} (key : Nat) (x : F32)
    (h : Memory.wf unitWords (m.get v).units = true) :
    readWord (writeWord m v key x) v key = x := by
  rw [readWord, get_writeWord_same]
  exact Memory.read_write_same key x h

theorem readWord_writeWord_otherVoice (m : Vector Voice 32) {v w : Fin 32} (key c : Nat) (x : F32)
    (h : w ≠ v) : readWord (writeWord m v key x) w c = readWord m w c := by
  rw [readWord, get_writeWord_other m key x h, readWord]

theorem readWord_writeWord_otherKey {m : Vector Voice 32} {v : Fin 32} {key c : Nat} (w : Fin 32)
    (x : F32) (hc : c ≠ key) (h : Memory.wf unitWords (m.get v).units = true) :
    readWord (writeWord m v key x) w c = readWord m w c := by
  by_cases hw : w = v
  · subst hw
    rw [readWord, get_writeWord_same]
    exact Memory.read_write_other x hc h
  · exact readWord_writeWord_otherVoice m key c x hw

/-- A write keeps the note and the release flag of every voice. -/
@[simp] theorem writeWord_note (m : Vector Voice 32) (v w : Fin 32) (key : Nat) (x : F32) :
    ((writeWord m v key x).get w).note = (m.get w).note := by
  by_cases hw : w = v
  · subst hw; rw [get_writeWord_same]
  · rw [get_writeWord_other m key x hw]

@[simp] theorem writeWord_release (m : Vector Voice 32) (v w : Fin 32) (key : Nat) (x : F32) :
    ((writeWord m v key x).get w).release = (m.get w).release := by
  by_cases hw : w = v
  · subst hw; rw [get_writeWord_same]
  · rw [get_writeWord_other m key x hw]

/-- A write inside the 63 unit records keeps the written voice canonical. -/
theorem wf_writeWord {m : Vector Voice 32} {v : Fin 32} {key : Nat} (x : F32)
    (hk : key < unitWords) (h : Memory.wf unitWords (m.get v).units = true) :
    Memory.wf unitWords ((writeWord m v key x).get v).units = true := by
  rw [get_writeWord_same]
  exact Memory.wf_write x hk h

/-- A write inside the 63 unit records keeps voice memory canonical. -/
theorem VoicesWf.write {m : Vector Voice 32} (h : VoicesWf m) (v : Fin 32) {key : Nat} (x : F32)
    (hk : key < unitWords) : VoicesWf (writeWord m v key x) := by
  intro w
  by_cases hw : w = v
  · subst hw; exact wf_writeWord x hk (h w)
  · rw [get_writeWord_other m key x hw]; exact h w

/-- Reading operands keeps the note and the release flag of every voice. -/
theorem materialiseFrom_voice (ts : List Byte) : ∀ (i : Nat) (s : State) (v : Fin 32),
    ((materialiseFrom i ts s).voices.get v).note = (s.voices.get v).note ∧
    ((materialiseFrom i ts s).voices.get v).release = (s.voices.get v).release := by
  induction ts with
  | nil => exact fun _ _ _ => ⟨rfl, rfl⟩
  | cons b bs ih =>
    intro i s v
    obtain ⟨h1, h2⟩ := ih (i + 1) (materialiseOne i b s) v
    exact ⟨h1.trans (writeWord_note ..), h2.trans (writeWord_release ..)⟩

@[simp] theorem operandsRead_note (ts : List Byte) (n : Nat) (s : State) (v : Fin 32) :
    ((operandsRead ts n s).voices.get v).note = (s.voices.get v).note :=
  (materialiseFrom_voice ts 0 s v).1

@[simp] theorem operandsRead_release (ts : List Byte) (n : Nat) (s : State) (v : Fin 32) :
    ((operandsRead ts n s).voices.get v).release = (s.voices.get v).release :=
  (materialiseFrom_voice ts 0 s v).2

/-- The words of the 63 units lie inside the space. -/
theorem stateKey_lt {u k : Nat} (hu : u < 63) (hk : k < 16) : stateKey u k < unitWords := by
  simp only [stateKey, unitWords]; omega

theorem portKey_lt {u k : Nat} (hu : u < 63) (hk : k < 8) : portKey u k < unitWords := by
  simp only [portKey, unitWords]; omega

/-- Different words have different keys. -/
theorem stateKey_inj {u k u' k' : Nat} (hk : k < 8) (hk' : k' < 8) :
    stateKey u k = stateKey u' k' ↔ u = u' ∧ k = k' := by
  simp only [stateKey]; omega

theorem portKey_inj {u k u' k' : Nat} (hk : k < 8) (hk' : k' < 8) :
    portKey u k = portKey u' k' ↔ u = u' ∧ k = k' := by
  simp only [portKey]; omega

theorem stateKey_ne_portKey {u k u' k' : Nat} (hk : k < 8) (hk' : k' < 8) :
    stateKey u k ≠ portKey u' k' := by
  simp only [stateKey, portKey]; omega

/-- Reading at most 8 transformables keeps the executing voice canonical. -/
theorem wf_materialiseFrom (ts : List Byte) : ∀ (i : Nat) (s : State), s.ui < 63 →
    i + ts.length ≤ 8 → Memory.wf unitWords (s.voices.get s.vi).units = true →
    Memory.wf unitWords ((materialiseFrom i ts s).voices.get s.vi).units = true := by
  induction ts with
  | nil => exact fun _ _ _ _ h => h
  | cons b bs ih =>
    intro i s hu hi h
    rw [List.length_cons] at hi
    exact ih (i + 1) (materialiseOne i b s) hu (by omega)
      (wf_writeWord f0 (portKey_lt hu (by omega)) h)

theorem wf_operandsRead {ts : List Byte} (n : Nat) {s : State} (hu : s.ui < 63)
    (hts : ts.length ≤ 8) (h : Memory.wf unitWords (s.voices.get s.vi).units = true) :
    Memory.wf unitWords ((operandsRead ts n s).voices.get s.vi).units = true :=
  wf_materialiseFrom ts 0 s hu (by simpa using hts) h

/-- Reading operands leaves the other voices alone. -/
theorem materialiseFrom_otherVoice (ts : List Byte) : ∀ (i : Nat) (s : State) {v : Fin 32},
    v ≠ s.vi → (materialiseFrom i ts s).voices.get v = s.voices.get v := by
  induction ts with
  | nil => exact fun _ _ _ _ => rfl
  | cons b bs ih =>
    intro i s v hv
    exact (ih (i + 1) (materialiseOne i b s) hv).trans (get_writeWord_other _ _ _ hv)

theorem VoicesWf.operandsRead {ts : List Byte} (n : Nat) {s : State} (hu : s.ui < 63)
    (hts : ts.length ≤ 8) (h : VoicesWf s.voices) : VoicesWf (operandsRead ts n s).voices := by
  intro v
  by_cases hv : v = s.vi
  · subst hv; exact wf_operandsRead n hu hts (h s.vi)
  · show Memory.wf unitWords ((materialiseFrom 0 ts s).voices.get v).units = true
    rw [materialiseFrom_otherVoice ts 0 s hv]; exact h v

/-! ### The output bus -/

theorem readOutput_writeOutput_same {s : State} {c : Nat} (x : F32) (hc : c < 8) :
    readOutput (writeOutput s c x) c = x := by
  simp [readOutput, writeOutput, hc]

theorem readOutput_writeOutput_other {s : State} {c d : Nat} (x : F32) (h : d ≠ c) :
    readOutput (writeOutput s c x) d = readOutput s d := by
  simp [readOutput, writeOutput, Ne.symm h]

end Sys2Proof.Machine
end

