-- ==== Sys2Proof/Laws/Ops.lean ====
section
/-! SUPPORT. What each shared operation answers, said once: the equations of a handler's parts, so that a
meaning is run by `simp` with them, and what running a unit can do. The lemmas about `bind` take a
handler apart where it stands applied to a state. Their proofs are written `(rfl)`, in brackets, so that
`simp` rewrites with them instead of leaving one large conversion to the kernel, which would unfold
the arithmetic.
-/
namespace Sys2Proof.Machine

variable {α β : Type}

/-! ### Sequencing -/

theorem bind_ok {m : M α} {k : α → M β} {s t : State} {a : α} (h : m s = .ok a t) :
    (m >>= k) s = k a t := by
  simp [bind, EStateM.bind, h]

theorem bind_error {m : M α} {k : α → M β} {s t : State} {e : RenderError} (h : m s = .error e t) :
    (m >>= k) s = .error e t := by
  simp [bind, EStateM.bind, h]

@[simp] theorem pure_run (a : α) (s : State) : (pure a : M α) s = .ok a s := (rfl)
@[simp] theorem num_pure (a : α) (d : Nat) : (pure a : Num α) d = (a, d) := (rfl)
@[simp] theorem num_bind (x : Num α) (f : α → Num β) (d : Nat) :
    (x >>= f) d = f (x d).1 (x d).2 := (rfl)

@[simp] theorem num_map (f : α → β) (x : Num α) (d : Nat) :
    (f <$> x) d = (f (x d).1, (x d).2) := (rfl)
@[simp] theorem num_ite (c : Bool) (x y : Num α) (d : Nat) :
    (if c = true then x else y) d = if c = true then x d else y d := by
  cases c <;> rfl
@[simp] theorem num_ite_bind (c : Bool) (x y : Num α) (f : α → Num β) (d : Nat) :
    ((if c = true then x else y) >>= f) d =
      if c = true then f (x d).1 (x d).2 else f (y d).1 (y d).2 := by
  cases c <;> rfl

/-! ### Arithmetic: every operation takes one draw -/

@[simp] theorem fadd_run (a b : F32) (d : Nat) : fadd a b d = (addAt d a b, d + 1) := (rfl)
@[simp] theorem fsub_run (a b : F32) (d : Nat) : fsub a b d = (subAt d a b, d + 1) := (rfl)
@[simp] theorem fmul_run (a b : F32) (d : Nat) : fmul a b d = (mulAt d a b, d + 1) := (rfl)
@[simp] theorem fdiv_run (a b : F32) (d : Nat) : fdiv a b d = (divAt d a b, d + 1) := (rfl)
@[simp] theorem ffloor_run (x : F32) (d : Nat) :
    ffloor x d = (if isNaN x then Config.nan d else floorNumber x, d + 1) := (rfl)
@[simp] theorem signedParam_run (p : F32) (d : Nat) :
    signedParam p d = (subAt (d + 1) (mulAt d p f2) f1, d + 2) := (rfl)
@[simp] theorem nonLinearMap_run (x : F32) (d : Nat) :
    nonLinearMap x d = (exp2F (mulAt d fNeg24 x), d + 1) := (rfl)

/-! ### The parts of a handler that always go on -/

@[simp] theorem change_bind (f : State → State) (k : Unit → M β) (s : State) :
    (change f >>= k) s = k () (f s) := (rfl)
@[simp] theorem change_run (f : State → State) (s : State) : change f s = .ok () (f s) := (rfl)
@[simp] theorem readAll_bind (k : State → M β) (s : State) : (readAll >>= k) s = k s s := (rfl)
@[simp] theorem readAll_run (s : State) : readAll s = .ok s s := (rfl)
@[simp] theorem num_then (m : Num α) (k : α → M β) (s : State) :
    (num m >>= k) s = k (m s.draws).1 { s with draws := (m s.draws).2 } := (rfl)
@[simp] theorem num_run (m : Num α) (s : State) :
    num m s = .ok (m s.draws).1 { s with draws := (m s.draws).2 } := (rfl)
@[simp] theorem drop_bind (n : Nat) (k : Unit → M β) (s : State) :
    (drop n >>= k) s = k () { s with stk := s.stk.drop n } := (rfl)
@[simp] theorem drop_run (n : Nat) (s : State) :
    drop n s = .ok () { s with stk := s.stk.drop n } := (rfl)
@[simp] theorem top_bind (i : Nat) (k : F32 → M β) (s : State) :
    (top i >>= k) s = k (s.stk.getD i f0) s := (rfl)
@[simp] theorem top_run (i : Nat) (s : State) : top i s = .ok (s.stk.getD i f0) s := (rfl)
@[simp] theorem setTop_bind (i : Nat) (v : F32) (k : Unit → M β) (s : State) :
    (setTop i v >>= k) s = k () { s with stk := s.stk.set i v } := (rfl)
@[simp] theorem setTop_run (i : Nat) (v : F32) (s : State) :
    setTop i v s = .ok () { s with stk := s.stk.set i v } := (rfl)
@[simp] theorem param_bind (i : Nat) (k : F32 → M β) (s : State) :
    (param i >>= k) s = k (readParam s i) s := (rfl)
@[simp] theorem param_run (i : Nat) (s : State) : param i s = .ok (readParam s i) s := (rfl)
@[simp] theorem ownState_bind (i : Nat) (k : F32 → M β) (s : State) :
    (ownState i >>= k) s = k (readState s s.vi s.ui i) s := (rfl)
@[simp] theorem ownState_run (i : Nat) (s : State) :
    ownState i s = .ok (readState s s.vi s.ui i) s := (rfl)
@[simp] theorem setOwnState_bind (i : Nat) (x : F32) (k : Unit → M β) (s : State) :
    (setOwnState i x >>= k) s = k () (writeState s s.vi s.ui i x) := (rfl)
@[simp] theorem setOwnState_run (i : Nat) (x : F32) (s : State) :
    setOwnState i x s = .ok () (writeState s s.vi s.ui i x) := (rfl)
@[simp] theorem ownPort_bind (i : Nat) (k : F32 → M β) (s : State) :
    (ownPort i >>= k) s = k (readPort s s.vi s.ui i) s := (rfl)
@[simp] theorem ownPort_run (i : Nat) (s : State) :
    ownPort i s = .ok (readPort s s.vi s.ui i) s := (rfl)
@[simp] theorem setOwnPort_bind (i : Nat) (x : F32) (k : Unit → M β) (s : State) :
    (setOwnPort i x >>= k) s = k () (writePort s s.vi s.ui i x) := (rfl)
@[simp] theorem setOwnPort_run (i : Nat) (x : F32) (s : State) :
    setOwnPort i x s = .ok () (writePort s s.vi s.ui i x) := (rfl)
@[simp] theorem pure_bind_run (a : α) (k : α → M β) (s : State) :
    ((pure a : M α) >>= k) s = k a s := (rfl)
@[simp] theorem bind_bind (m : M α) (f : α → M β) {γ : Type} (g : β → M γ) :
    ((m >>= f) >>= g) = (m >>= fun a => f a >>= g) := by
  funext s
  show EStateM.bind (EStateM.bind m f) g s = EStateM.bind m (fun a => EStateM.bind (f a) g) s
  simp only [EStateM.bind]
  cases m s <;> rfl

/-! ### The parts that may fault -/

theorem need_bind (n : Nat) (k : Unit → M β) (s : State) :
    (need n >>= k) s = if n ≤ s.stk.length then k () s else .error .stackUnderflow s := by
  by_cases h : n ≤ s.stk.length <;> simp [bind, EStateM.bind, need, h]

theorem need_run (n : Nat) (s : State) :
    need n s = if n ≤ s.stk.length then .ok () s else .error .stackUnderflow s := (rfl)

theorem raiseIf_bind (bad : Bool) (e : RenderError) (k : Unit → M β) (s : State) :
    (raiseIf bad e >>= k) s = if bad then .error e s else k () s := by
  cases bad <;> simp [bind, EStateM.bind, raiseIf]

theorem raiseIf_run (bad : Bool) (e : RenderError) (s : State) :
    raiseIf bad e s = if bad then .error e s else .ok () s := (rfl)

theorem push_bind (v : F32) (k : Unit → M β) (s : State) :
    (push v >>= k) s =
      if s.stk.length < stackCap s then k () { s with stk := v :: s.stk }
      else .error (.renderFault .stackOverflow) s := by
  by_cases h : s.stk.length < stackCap s <;> simp [bind, EStateM.bind, push, h]

theorem push_run (v : F32) (s : State) :
    push v s =
      if s.stk.length < stackCap s then .ok () { s with stk := v :: s.stk }
      else .error (.renderFault .stackOverflow) s := (rfl)

theorem truncI_bind (x : F32) (k : Int → M β) (s : State) :
    (truncI x >>= k) s =
      if isFinite x then k (truncInt x) s else .error (.renderFault .nonFiniteIndex) s := by
  by_cases h : isFinite x = true <;> simp [bind, EStateM.bind, truncI, h]

theorem roundI_bind (x : F32) (k : Int → M β) (s : State) :
    (roundI x >>= k) s =
      if isFinite x then k (roundInt s.cfg.roundTie x) s
      else .error (.renderFault .nonFiniteIndex) s := by
  by_cases h : isFinite x = true <;> simp [bind, EStateM.bind, roundI, h]

theorem syncWrite_bind (v : F32) (k : Unit → M β) (s : State) :
    (syncWrite v >>= k) s =
      if s.syncPos < syncCap s then
        k () { s with syncBuffer := s.syncBuffer.set s.syncPos v, syncPos := s.syncPos + 1 }
      else .error (.renderFault .syncBufferFull) s := by
  by_cases h : s.syncPos < syncCap s <;> simp [bind, EStateM.bind, syncWrite, h]

theorem syncWrite_run (v : F32) (s : State) :
    syncWrite v s =
      if s.syncPos < syncCap s then
        .ok () { s with syncBuffer := s.syncBuffer.set s.syncPos v, syncPos := s.syncPos + 1 }
      else .error (.renderFault .syncBufferFull) s := (rfl)

/-! ### Channels -/

@[simp] theorem ch_true : ch true = 2 := (rfl)
@[simp] theorem ch_false : ch false = 1 := (rfl)
@[simp] theorem forChannels_true (body : Nat → M Unit) :
    forChannels true body = body 0 >>= fun _ => body 1 := (rfl)
@[simp] theorem forChannels_false (body : Nat → M Unit) : forChannels false body = body 0 := by
  funext s
  show EStateM.bind (body 0) (fun _ => EStateM.pure ()) s = body 0 s
  simp only [EStateM.bind]
  cases body 0 s <;> rfl
@[simp] theorem pushTwice_true (v : F32) : pushTwice true v = push v >>= fun _ => push v := (rfl)
@[simp] theorem pushTwice_false (v : F32) : pushTwice false v = push v := by
  funext s
  show EStateM.bind (push v) (fun _ => EStateM.pure ()) s = push v s
  simp only [EStateM.bind]
  cases push v s <;> rfl

/-- A bus add goes on, and writes the one channel. -/
@[simp] theorem busAdd_run (c : Nat) (g x : F32) (s : State) :
    busAdd c g x s = .ok () (writeOutput { s with draws := s.draws + 2 } c
      (addAt (s.draws + 1) (readOutput s c) (mulAt s.draws g x))) := (rfl)
@[simp] theorem busAdd_bind (c : Nat) (g x : F32) (k : Unit → M β) (s : State) :
    (busAdd c g x >>= k) s = k () (writeOutput { s with draws := s.draws + 2 } c
      (addAt (s.draws + 1) (readOutput s c) (mulAt s.draws g x))) := (rfl)

/-- A port add goes on, and writes the one port. -/
@[simp] theorem portAdd_run (v : Fin 32) (u p : Nat) (x amt : F32) (s : State) :
    portAdd v u p x amt s = .ok () (writePort { s with draws := s.draws + 2 } v u p
      (addAt (s.draws + 1) (readPort s v u p) (mulAt s.draws x amt))) := (rfl)
@[simp] theorem portAdd_bind (v : Fin 32) (u p : Nat) (x amt : F32) (k : Unit → M β) (s : State) :
    (portAdd v u p x amt >>= k) s = k () (writePort { s with draws := s.draws + 2 } v u p
      (addAt (s.draws + 1) (readPort s v u p) (mulAt s.draws x amt))) := (rfl)

/-- One draw of the pseudo-random source. -/
@[simp] theorem rand_bind (k : F32 → M β) (s : State) :
    (rand >>= k) s = k (divAt s.draws (ofInt (s.randSeed * 16007).toInt) fNegTwo31)
      { s with randSeed := s.randSeed * 16007, draws := s.draws + 1 } := (rfl)

/-! ### Running a unit -/

/-- A unit within the 63 of its voice runs its handler from the state after its operands. -/
theorem runUnit_below {s : State} (h : s.ui < 63) (ts : List Byte) (n : Nat) (m : M Unit) :
    runUnit ts n m s = .next (finishUnit (commandSite s) (m (operandsRead ts n s))) := by
  have h' : ¬ 63 ≤ s.ui := by omega
  simp [runUnit, h']

/-- A unit beyond the 63 of its voice faults before anything is read. -/
theorem runUnit_full {s : State} (h : 63 ≤ s.ui) (ts : List Byte) (n : Nat) (m : M Unit) :
    runUnit ts n m s =
      .next (faultEntry (.renderFault .unitOverflow) (commandSite s) s) := by
  simp [runUnit, h]

/-- All a unit can do. -/
theorem runUnit_cases (ts : List Byte) (n : Nat) (m : M Unit) (s : State) :
    (63 ≤ s.ui ∧ runUnit ts n m s =
      .next (faultEntry (.renderFault .unitOverflow) (commandSite s) s)) ∨
    (s.ui < 63 ∧ ∃ t, m (operandsRead ts n s) = .ok () t ∧
      runUnit ts n m s = .next { t with ui := t.ui + 1 }) ∨
    (s.ui < 63 ∧ ∃ e t, m (operandsRead ts n s) = .error e t ∧
      runUnit ts n m s = .next (faultEntry e (commandSite s) t)) := by
  rcases Nat.lt_or_ge s.ui 63 with h | h
  · rw [runUnit_below h]
    cases hm : m (operandsRead ts n s) with
    | ok a t => exact .inr (.inl ⟨h, t, rfl, rfl⟩)
    | error e t => exact .inr (.inr ⟨h, e, t, rfl, rfl⟩)
  · exact .inl ⟨h, runUnit_full h ts n m⟩

@[simp] theorem finishUnit_ok (site : Option Nat) (t : State) :
    finishUnit site (.ok () t) = { t with ui := t.ui + 1 } := (rfl)
@[simp] theorem finishUnit_error (site : Option Nat) (e : RenderError) (t : State) :
    finishUnit site (.error e t) = faultEntry e site t := (rfl)

/-! ### Relations a handler keeps -/

/-- Whatever way the handler ends, the state it leaves is related to the one it started from. -/
def Keeps (R : State → State → Prop) (m : M α) : Prop :=
  ∀ s, match m s with
    | .ok _ t => R s t
    | .error _ t => R s t

theorem Keeps.bind {R : State → State → Prop} (trans : ∀ {a b c}, R a b → R b c → R a c)
    {m : M α} {k : α → M β} (hm : Keeps R m) (hk : ∀ a, Keeps R (k a)) : Keeps R (m >>= k) := by
  intro s
  have h1 := hm s
  cases h : m s with
  | ok a t =>
    rw [h] at h1
    rw [bind_ok h]
    have h2 := hk a t
    cases h' : k a t <;> rw [h'] at h2 <;> exact trans h1 h2
  | error e t =>
    rw [h] at h1
    rw [bind_error h]
    exact h1

theorem Keeps.pure {R : State → State → Prop} (refl : ∀ a, R a a) (a : α) :
    Keeps R (pure a : M α) := fun s => refl s

end Sys2Proof.Machine
end

