-- ==== Sys2Proof/Laws/Operands.lean ====
section
/-! SUPPORT. The state each instruction's handler starts from, one lemma per constructor.
-/
namespace Sys2Proof.Machine

variable (s : State) (b : Bool)

@[simp] theorem afterOperands_advance : afterOperands (.advance b) s = s := by
  simp [afterOperands, Instr.operands]
@[simp] theorem afterOperands_add : afterOperands (.add b) s = s := by
  simp [afterOperands, Instr.operands]
@[simp] theorem afterOperands_addp : afterOperands (.addp b) s = s := by
  simp [afterOperands, Instr.operands]
@[simp] theorem afterOperands_pop : afterOperands (.pop b) s = s := by
  simp [afterOperands, Instr.operands]
@[simp] theorem afterOperands_loadnote : afterOperands (.loadnote b) s = s := by
  simp [afterOperands, Instr.operands]
@[simp] theorem afterOperands_mul : afterOperands (.mul b) s = s := by
  simp [afterOperands, Instr.operands]
@[simp] theorem afterOperands_mulp : afterOperands (.mulp b) s = s := by
  simp [afterOperands, Instr.operands]
@[simp] theorem afterOperands_push : afterOperands (.push b) s = s := by
  simp [afterOperands, Instr.operands]
@[simp] theorem afterOperands_xch : afterOperands (.xch b) s = s := by
  simp [afterOperands, Instr.operands]
@[simp] theorem afterOperands_clip : afterOperands (.clip b) s = s := by
  simp [afterOperands, Instr.operands]
@[simp] theorem afterOperands_speed : afterOperands (.speed b) s = s := by
  simp [afterOperands, Instr.operands]
@[simp] theorem afterOperands_receive : afterOperands (.receive b) s = s := by
  simp [afterOperands, Instr.operands]
@[simp] theorem afterOperands_sync : afterOperands (.sync b) s = s := by
  simp [afterOperands, Instr.operands]
@[simp] theorem afterOperands_distort (t0 : Byte) :
    afterOperands (.distort b t0) s = operandsRead [t0] 0 s := by
  simp [afterOperands, Instr.command, Instr.operands, transformCount]
@[simp] theorem afterOperands_hold (t0 : Byte) :
    afterOperands (.hold b t0) s = operandsRead [t0] 0 s := by
  simp [afterOperands, Instr.command, Instr.operands, transformCount]
@[simp] theorem afterOperands_crush (t0 : Byte) :
    afterOperands (.crush b t0) s = operandsRead [t0] 0 s := by
  simp [afterOperands, Instr.command, Instr.operands, transformCount]
@[simp] theorem afterOperands_gain (t0 : Byte) :
    afterOperands (.gain b t0) s = operandsRead [t0] 0 s := by
  simp [afterOperands, Instr.command, Instr.operands, transformCount]
@[simp] theorem afterOperands_invgain (t0 : Byte) :
    afterOperands (.invgain b t0) s = operandsRead [t0] 0 s := by
  simp [afterOperands, Instr.command, Instr.operands, transformCount]
@[simp] theorem afterOperands_filter (t0 t1 x0 : Byte) :
    afterOperands (.filter b t0 t1 x0) s = operandsRead [t0, t1] 1 s := by
  simp [afterOperands, Instr.command, Instr.operands, transformCount]
@[simp] theorem afterOperands_pan (t0 : Byte) :
    afterOperands (.pan b t0) s = operandsRead [t0] 0 s := by
  simp [afterOperands, Instr.command, Instr.operands, transformCount]
@[simp] theorem afterOperands_delay (t0 t1 t2 t3 t4 x0 x1 : Byte) :
    afterOperands (.delay b t0 t1 t2 t3 t4 x0 x1) s = operandsRead [t0, t1, t2, t3, t4] 2 s := by
  simp [afterOperands, Instr.command, Instr.operands, transformCount]
@[simp] theorem afterOperands_compressor (t0 t1 t2 t3 t4 : Byte) :
    afterOperands (.compressor b t0 t1 t2 t3 t4) s = operandsRead [t0, t1, t2, t3, t4] 0 s := by
  simp [afterOperands, Instr.command, Instr.operands, transformCount]
@[simp] theorem afterOperands_out (t0 : Byte) :
    afterOperands (.out b t0) s = operandsRead [t0] 0 s := by
  simp [afterOperands, Instr.command, Instr.operands, transformCount]
@[simp] theorem afterOperands_outaux (t0 t1 : Byte) :
    afterOperands (.outaux b t0 t1) s = operandsRead [t0, t1] 0 s := by
  simp [afterOperands, Instr.command, Instr.operands, transformCount]
@[simp] theorem afterOperands_aux (t0 x0 : Byte) :
    afterOperands (.aux b t0 x0) s = operandsRead [t0] 1 s := by
  simp [afterOperands, Instr.command, Instr.operands, transformCount]
@[simp] theorem afterOperands_send (t0 : Byte) (a : Half) :
    afterOperands (.send b t0 a) s = operandsRead [t0] 2 s := by
  simp [afterOperands, Instr.command, Instr.operands, transformCount]
@[simp] theorem afterOperands_envelope (t0 t1 t2 t3 t4 : Byte) :
    afterOperands (.envelope b t0 t1 t2 t3 t4) s = operandsRead [t0, t1, t2, t3, t4] 0 s := by
  simp [afterOperands, Instr.command, Instr.operands, transformCount]
@[simp] theorem afterOperands_noise (t0 t1 : Byte) :
    afterOperands (.noise b t0 t1) s = operandsRead [t0, t1] 0 s := by
  simp [afterOperands, Instr.command, Instr.operands, transformCount]
@[simp] theorem afterOperands_loadval (t0 : Byte) :
    afterOperands (.loadval b t0) s = operandsRead [t0] 0 s := by
  simp [afterOperands, Instr.command, Instr.operands, transformCount]
@[simp] theorem afterOperands_input (x0 : Byte) :
    afterOperands (.input b x0) s = operandsRead [] 1 s := by
  simp [afterOperands, Instr.command, Instr.operands, transformCount]
@[simp] theorem afterOperands_oscillator (t0 t1 t2 t3 t4 t5 x0 : Byte) (g : Option Half) :
    afterOperands (.oscillator b t0 t1 t2 t3 t4 t5 x0 g) s =
      operandsRead [t0, t1, t2, t3, t4, t5] (if g.isSome then 3 else 1) s := by
  cases g <;> simp [afterOperands, Instr.command, Instr.operands, transformCount]

end Sys2Proof.Machine
end

