-- ==== Sys2Proof/Laws/PerInstr.lean ====
section
/-! SUPPORT. The family EncodeShape: what the encoding of every instruction looks like, one lemma per
constructor.
-/
namespace Sys2Proof.Laws

/-- R300, R302, R313: the command byte is one of 0x00..0x3D with the stereo bit in bit 0, and the operand
group of a well-formed instruction has the length its opcode (for the oscillator also its flags byte)
gives. -/
def EncodeShape.Statement (i : Instr) : Prop :=
  i.command.toNat ≤ 0x3D ∧
    (i.wellFormed = true →
      i.operands.length = Machine.groupLength (opcodeOf i.command) i.operands)

/-- A command byte of a legal opcode. -/
theorem commandByte_le {n : Nat} (h : n < 31) (b : Bool) : (commandByte n b).toNat ≤ 0x3D := by
  cases b <;> simp [commandByte] <;> omega

theorem EncodeShape.advance (stereo : Bool) :
    EncodeShape.Statement (.advance stereo) := by
  refine ⟨commandByte_le (by decide) _, fun _ => ?_⟩
  simp [Instr.command, Instr.operands, Machine.groupLength, transformCount, extraCount]

theorem EncodeShape.add (stereo : Bool) :
    EncodeShape.Statement (.add stereo) := by
  refine ⟨commandByte_le (by decide) _, fun _ => ?_⟩
  simp [Instr.command, Instr.operands, Machine.groupLength, transformCount, extraCount]

theorem EncodeShape.addp (stereo : Bool) :
    EncodeShape.Statement (.addp stereo) := by
  refine ⟨commandByte_le (by decide) _, fun _ => ?_⟩
  simp [Instr.command, Instr.operands, Machine.groupLength, transformCount, extraCount]

theorem EncodeShape.pop (stereo : Bool) :
    EncodeShape.Statement (.pop stereo) := by
  refine ⟨commandByte_le (by decide) _, fun _ => ?_⟩
  simp [Instr.command, Instr.operands, Machine.groupLength, transformCount, extraCount]

theorem EncodeShape.loadnote (stereo : Bool) :
    EncodeShape.Statement (.loadnote stereo) := by
  refine ⟨commandByte_le (by decide) _, fun _ => ?_⟩
  simp [Instr.command, Instr.operands, Machine.groupLength, transformCount, extraCount]

theorem EncodeShape.mul (stereo : Bool) :
    EncodeShape.Statement (.mul stereo) := by
  refine ⟨commandByte_le (by decide) _, fun _ => ?_⟩
  simp [Instr.command, Instr.operands, Machine.groupLength, transformCount, extraCount]

theorem EncodeShape.mulp (stereo : Bool) :
    EncodeShape.Statement (.mulp stereo) := by
  refine ⟨commandByte_le (by decide) _, fun _ => ?_⟩
  simp [Instr.command, Instr.operands, Machine.groupLength, transformCount, extraCount]

theorem EncodeShape.push (stereo : Bool) :
    EncodeShape.Statement (.push stereo) := by
  refine ⟨commandByte_le (by decide) _, fun _ => ?_⟩
  simp [Instr.command, Instr.operands, Machine.groupLength, transformCount, extraCount]

theorem EncodeShape.xch (stereo : Bool) :
    EncodeShape.Statement (.xch stereo) := by
  refine ⟨commandByte_le (by decide) _, fun _ => ?_⟩
  simp [Instr.command, Instr.operands, Machine.groupLength, transformCount, extraCount]

theorem EncodeShape.distort (stereo : Bool) (drive : Byte) :
    EncodeShape.Statement (.distort stereo drive) := by
  refine ⟨commandByte_le (by decide) _, fun _ => ?_⟩
  simp [Instr.command, Instr.operands, Machine.groupLength, transformCount, extraCount]

theorem EncodeShape.hold (stereo : Bool) (holdfreq : Byte) :
    EncodeShape.Statement (.hold stereo holdfreq) := by
  refine ⟨commandByte_le (by decide) _, fun _ => ?_⟩
  simp [Instr.command, Instr.operands, Machine.groupLength, transformCount, extraCount]

theorem EncodeShape.crush (stereo : Bool) (resolution : Byte) :
    EncodeShape.Statement (.crush stereo resolution) := by
  refine ⟨commandByte_le (by decide) _, fun _ => ?_⟩
  simp [Instr.command, Instr.operands, Machine.groupLength, transformCount, extraCount]

theorem EncodeShape.gain (stereo : Bool) (gain : Byte) :
    EncodeShape.Statement (.gain stereo gain) := by
  refine ⟨commandByte_le (by decide) _, fun _ => ?_⟩
  simp [Instr.command, Instr.operands, Machine.groupLength, transformCount, extraCount]

theorem EncodeShape.invgain (stereo : Bool) (invgain : Byte) :
    EncodeShape.Statement (.invgain stereo invgain) := by
  refine ⟨commandByte_le (by decide) _, fun _ => ?_⟩
  simp [Instr.command, Instr.operands, Machine.groupLength, transformCount, extraCount]

theorem EncodeShape.filter (stereo : Bool) (frequency resonance flags : Byte) :
    EncodeShape.Statement (.filter stereo frequency resonance flags) := by
  refine ⟨commandByte_le (by decide) _, fun _ => ?_⟩
  simp [Instr.command, Instr.operands, Machine.groupLength, transformCount, extraCount]

theorem EncodeShape.clip (stereo : Bool) :
    EncodeShape.Statement (.clip stereo) := by
  refine ⟨commandByte_le (by decide) _, fun _ => ?_⟩
  simp [Instr.command, Instr.operands, Machine.groupLength, transformCount, extraCount]

theorem EncodeShape.pan (stereo : Bool) (panning : Byte) :
    EncodeShape.Statement (.pan stereo panning) := by
  refine ⟨commandByte_le (by decide) _, fun _ => ?_⟩
  simp [Instr.command, Instr.operands, Machine.groupLength, transformCount, extraCount]

theorem EncodeShape.delay (stereo : Bool) (pregain dry feedback depth damp index count : Byte) :
    EncodeShape.Statement (.delay stereo pregain dry feedback depth damp index count) := by
  refine ⟨commandByte_le (by decide) _, fun _ => ?_⟩
  simp [Instr.command, Instr.operands, Machine.groupLength, transformCount, extraCount]

theorem EncodeShape.compressor (stereo : Bool) (attack release invgain threshold ratio : Byte) :
    EncodeShape.Statement (.compressor stereo attack release invgain threshold ratio) := by
  refine ⟨commandByte_le (by decide) _, fun _ => ?_⟩
  simp [Instr.command, Instr.operands, Machine.groupLength, transformCount, extraCount]

theorem EncodeShape.speed (stereo : Bool) :
    EncodeShape.Statement (.speed stereo) := by
  refine ⟨commandByte_le (by decide) _, fun _ => ?_⟩
  simp [Instr.command, Instr.operands, Machine.groupLength, transformCount, extraCount]

theorem EncodeShape.out (stereo : Bool) (gain : Byte) :
    EncodeShape.Statement (.out stereo gain) := by
  refine ⟨commandByte_le (by decide) _, fun _ => ?_⟩
  simp [Instr.command, Instr.operands, Machine.groupLength, transformCount, extraCount]

theorem EncodeShape.outaux (stereo : Bool) (outgain auxgain : Byte) :
    EncodeShape.Statement (.outaux stereo outgain auxgain) := by
  refine ⟨commandByte_le (by decide) _, fun _ => ?_⟩
  simp [Instr.command, Instr.operands, Machine.groupLength, transformCount, extraCount]

theorem EncodeShape.aux (stereo : Bool) (gain channel : Byte) :
    EncodeShape.Statement (.aux stereo gain channel) := by
  refine ⟨commandByte_le (by decide) _, fun _ => ?_⟩
  simp [Instr.command, Instr.operands, Machine.groupLength, transformCount, extraCount]

theorem EncodeShape.send (stereo : Bool) (amount : Byte) (address : Half) :
    EncodeShape.Statement (.send stereo amount address) := by
  refine ⟨commandByte_le (by decide) _, fun _ => ?_⟩
  simp [Instr.command, Instr.operands, Machine.groupLength, transformCount, extraCount]

theorem EncodeShape.envelope (stereo : Bool) (attack decay sustain release gain : Byte) :
    EncodeShape.Statement (.envelope stereo attack decay sustain release gain) := by
  refine ⟨commandByte_le (by decide) _, fun _ => ?_⟩
  simp [Instr.command, Instr.operands, Machine.groupLength, transformCount, extraCount]

theorem EncodeShape.noise (stereo : Bool) (shape gain : Byte) :
    EncodeShape.Statement (.noise stereo shape gain) := by
  refine ⟨commandByte_le (by decide) _, fun _ => ?_⟩
  simp [Instr.command, Instr.operands, Machine.groupLength, transformCount, extraCount]

theorem EncodeShape.oscillator (stereo : Bool) (transpose detune phase color shape gain flags : Byte) (gate : Option Half) :
    EncodeShape.Statement (.oscillator stereo transpose detune phase color shape gain flags gate) := by
  refine ⟨commandByte_le (by decide) _, fun h => ?_⟩
  cases gate <;>
    simp [Instr.wellFormed] at h <;>
    simp [Instr.command, Instr.operands, Machine.groupLength, transformCount, extraCount, ← h]

theorem EncodeShape.loadval (stereo : Bool) (value : Byte) :
    EncodeShape.Statement (.loadval stereo value) := by
  refine ⟨commandByte_le (by decide) _, fun _ => ?_⟩
  simp [Instr.command, Instr.operands, Machine.groupLength, transformCount, extraCount]

theorem EncodeShape.receive (stereo : Bool) :
    EncodeShape.Statement (.receive stereo) := by
  refine ⟨commandByte_le (by decide) _, fun _ => ?_⟩
  simp [Instr.command, Instr.operands, Machine.groupLength, transformCount, extraCount]

theorem EncodeShape.input (stereo : Bool) (channel : Byte) :
    EncodeShape.Statement (.input stereo channel) := by
  refine ⟨commandByte_le (by decide) _, fun _ => ?_⟩
  simp [Instr.command, Instr.operands, Machine.groupLength, transformCount, extraCount]

theorem EncodeShape.sync (stereo : Bool) :
    EncodeShape.Statement (.sync stereo) := by
  refine ⟨commandByte_le (by decide) _, fun _ => ?_⟩
  simp [Instr.command, Instr.operands, Machine.groupLength, transformCount, extraCount]

end Sys2Proof.Laws
end

