-- ==== Sys2Proof/Laws/Terms.lean ====
section
/-! SUPPORT. The small lemmas of the values of `delay` and of the oscillator (Safety.lean): their recursions,
and what one partial leaves as it was.
-/
namespace Sys2Proof.Machine

/-! ### `delay` -/

@[simp] theorem DelayCall.sum_zero (c : DelayCall) (i : Nat) :
    c.sum i 0 = mulAt (c.first i) (readParam c.m 1) (c.m.stk.getD i f0) := (rfl)
@[simp] theorem DelayCall.sum_succ (c : DelayCall) (i k : Nat) :
    c.sum i (k + 1) = addAt (c.lineOp i k + c.lengthOps) (c.sum i k) (c.tap i k) := (rfl)
@[simp] theorem DelayCall.after_patch (c : DelayCall) (j : Nat) : (c.after j).patch = c.m.patch := rfl
@[simp] theorem DelayCall.after_voices (c : DelayCall) (j : Nat) :
    (c.after j).voices = c.m.voices := rfl
@[simp] theorem DelayCall.after_params (c : DelayCall) (j : Nat) :
    (c.after j).params = c.m.params := rfl
@[simp] theorem DelayCall.after_dl (c : DelayCall) (j : Nat) : (c.after j).dl = c.m.dl + j := rfl
@[simp] theorem DelayCall.after_lines_length (c : DelayCall) (j : Nat) :
    (c.after j).lines.length = c.m.lines.length := by simp [DelayCall.after]

/-- A line of delay memory after the first `j` lines of the command. -/
theorem DelayCall.after_line (c : DelayCall) (j q : Nat) :
    (c.after j).lines[q]? = (c.m.lines[q]?).map fun l =>
      if c.m.dl ≤ q ∧ q < c.m.dl + j then c.new ((q - c.m.dl) / c.n) ((q - c.m.dl) % c.n) else l := by
  simp [DelayCall.after]

/-- Before its first line the command has changed nothing but the draw counter. -/
theorem DelayCall.after_zero (c : DelayCall) : c.after 0 = { c.m with draws := c.lineOp 0 0 } := by
  have h : ∀ l : List DelayLine, l.mapIdx (fun q x =>
      if c.m.dl ≤ q ∧ q < c.m.dl then c.new ((q - c.m.dl) / c.n) ((q - c.m.dl) % c.n) else x) = l := by
    intro l
    refine List.ext_getElem (by simp) fun q _ _ => ?_
    simp only [List.getElem_mapIdx]
    rw [if_neg (by omega)]
  simp [DelayCall.after, h]

/-! ### The oscillator -/

@[simp] theorem OscPoint.partials_zero (flags : Byte) (g : Half) (i : Nat) (p : OscPoint) :
    p.partials flags g i 0 = p := (rfl)
@[simp] theorem OscPoint.partials_succ (flags : Byte) (g : Half) (i n : Nat) (p : OscPoint) :
    p.partials flags g i (n + 1) = (p.partials flags g i n).next flags g i n := (rfl)

/-- A partial changes voice memory and the draw counter of the state, nothing else. -/
theorem OscPoint.next_state (flags : Byte) (g : Half) (i j : Nat) (p : OscPoint) :
    (p.next flags g i j).state = { p.state with
      voices := (p.next flags g i j).state.voices
      draws := (p.next flags g i j).state.draws } := by
  simp only [OscPoint.next]
  split <;> rfl

/-- The partials of a channel change voice memory and the draw counter, nothing else. -/
theorem OscPoint.partials_state (flags : Byte) (g : Half) (i n : Nat) (p : OscPoint) :
    (p.partials flags g i n).state = { p.state with
      voices := (p.partials flags g i n).state.voices
      draws := (p.partials flags g i n).state.draws } := by
  induction n with
  | zero => rfl
  | succ n ih =>
    rw [partials_succ, next_state]
    conv_lhs => rw [ih]

end Sys2Proof.Machine
end

