-- ==== Sys2Proof/Tests/Slice0.lean ====
section
/-! SUPPORT. Small tests: the well-formedness checks, the decoding of every constructor from words
written out from 30_encoding.md, one-step tests on the values of 95_test_vectors.md and of the rules'
worked examples, and for every statement with hypotheses a state that meets them.
-/
namespace Sys2Proof.Tests
open Sys2Proof Sys2Proof.Machine
set_option Elab.async false

/-! ### Well-formedness -/

theorem test_wellFormed_refuses_missing_gate_mask :
    (Instr.oscillator false 124 64 0 64 64 128 0x04 none).wellFormed = false := by decide
theorem test_wellFormed_refuses_stray_gate_mask :
    (Instr.oscillator false 124 64 0 64 64 128 0x10 (some 1)).wellFormed = false := by decide
theorem test_wellFormed_accepts_both_forms :
    (Instr.oscillator false 124 64 0 64 64 128 0x04 (some 1)).wellFormed = true ∧
    (Instr.oscillator true 124 64 0 64 64 128 0x10 none).wellFormed = true := by decide

/-! ### Decoding: the words are those of R302 (command bytes) and R301 (operand order) -/

theorem test_decode_advance :
    decode 0x00 [0xEE] = .instr (.advance false) ∧
    decode 0x01 [0xEE] = .instr (.advance true) := by decide
theorem test_decode_add :
    decode 0x02 [0xEE] = .instr (.add false) ∧
    decode 0x03 [0xEE] = .instr (.add true) := by decide
theorem test_decode_addp :
    decode 0x04 [0xEE] = .instr (.addp false) ∧
    decode 0x05 [0xEE] = .instr (.addp true) := by decide
theorem test_decode_pop :
    decode 0x06 [0xEE] = .instr (.pop false) ∧
    decode 0x07 [0xEE] = .instr (.pop true) := by decide
theorem test_decode_loadnote :
    decode 0x08 [0xEE] = .instr (.loadnote false) ∧
    decode 0x09 [0xEE] = .instr (.loadnote true) := by decide
theorem test_decode_mul :
    decode 0x0A [0xEE] = .instr (.mul false) ∧
    decode 0x0B [0xEE] = .instr (.mul true) := by decide
theorem test_decode_mulp :
    decode 0x0C [0xEE] = .instr (.mulp false) ∧
    decode 0x0D [0xEE] = .instr (.mulp true) := by decide
theorem test_decode_push :
    decode 0x0E [0xEE] = .instr (.push false) ∧
    decode 0x0F [0xEE] = .instr (.push true) := by decide
theorem test_decode_xch :
    decode 0x10 [0xEE] = .instr (.xch false) ∧
    decode 0x11 [0xEE] = .instr (.xch true) := by decide
theorem test_decode_distort :
    decode 0x12 [0x60, 0xEE] = .instr (.distort false 0x60) ∧
    decode 0x13 [0x60, 0xEE] = .instr (.distort true 0x60) := by decide
theorem test_decode_hold :
    decode 0x14 [0x40, 0xEE] = .instr (.hold false 0x40) ∧
    decode 0x15 [0x40, 0xEE] = .instr (.hold true 0x40) := by decide
theorem test_decode_crush :
    decode 0x16 [0x10, 0xEE] = .instr (.crush false 0x10) ∧
    decode 0x17 [0x10, 0xEE] = .instr (.crush true 0x10) := by decide
theorem test_decode_gain :
    decode 0x18 [0x40, 0xEE] = .instr (.gain false 0x40) ∧
    decode 0x19 [0x40, 0xEE] = .instr (.gain true 0x40) := by decide
theorem test_decode_invgain :
    decode 0x1A [0x41, 0xEE] = .instr (.invgain false 0x41) ∧
    decode 0x1B [0x41, 0xEE] = .instr (.invgain true 0x41) := by decide
theorem test_decode_filter :
    decode 0x1C [0x40, 0x80, 0x20, 0xEE] = .instr (.filter false 0x40 0x80 0x20) ∧
    decode 0x1D [0x40, 0x80, 0x20, 0xEE] = .instr (.filter true 0x40 0x80 0x20) := by decide
theorem test_decode_clip :
    decode 0x1E [0xEE] = .instr (.clip false) ∧
    decode 0x1F [0xEE] = .instr (.clip true) := by decide
theorem test_decode_pan :
    decode 0x20 [0x20, 0xEE] = .instr (.pan false 0x20) ∧
    decode 0x21 [0x20, 0xEE] = .instr (.pan true 0x20) := by decide
theorem test_decode_delay :
    decode 0x22 [0x1, 0x2, 0x3, 0x4, 0x5, 0x6, 0x7, 0xEE] = .instr (.delay false 1 2 3 4 5 6 7) ∧
    decode 0x23 [0x1, 0x2, 0x3, 0x4, 0x5, 0x6, 0x7, 0xEE] = .instr (.delay true 1 2 3 4 5 6 7) := by decide
theorem test_decode_compressor :
    decode 0x24 [0x1, 0x2, 0x3, 0x4, 0x5, 0xEE] = .instr (.compressor false 1 2 3 4 5) ∧
    decode 0x25 [0x1, 0x2, 0x3, 0x4, 0x5, 0xEE] = .instr (.compressor true 1 2 3 4 5) := by decide
theorem test_decode_speed :
    decode 0x26 [0xEE] = .instr (.speed false) ∧
    decode 0x27 [0xEE] = .instr (.speed true) := by decide
theorem test_decode_out :
    decode 0x28 [0x80, 0xEE] = .instr (.out false 0x80) ∧
    decode 0x29 [0x80, 0xEE] = .instr (.out true 0x80) := by decide
theorem test_decode_outaux :
    decode 0x2A [0x80, 0x40, 0xEE] = .instr (.outaux false 0x80 0x40) ∧
    decode 0x2B [0x80, 0x40, 0xEE] = .instr (.outaux true 0x80 0x40) := by decide
theorem test_decode_aux :
    decode 0x2C [0x80, 0x2, 0xEE] = .instr (.aux false 0x80 2) ∧
    decode 0x2D [0x80, 0x2, 0xEE] = .instr (.aux true 0x80 2) := by decide
theorem test_decode_send :
    decode 0x2E [0x60, 0x38, 0x84, 0xEE] = .instr (.send false 0x60 0x8438) ∧
    decode 0x2F [0x60, 0x38, 0x84, 0xEE] = .instr (.send true 0x60 0x8438) := by decide
theorem test_decode_envelope :
    decode 0x30 [0x1, 0x2, 0x3, 0x4, 0x5, 0xEE] = .instr (.envelope false 1 2 3 4 5) ∧
    decode 0x31 [0x1, 0x2, 0x3, 0x4, 0x5, 0xEE] = .instr (.envelope true 1 2 3 4 5) := by decide
theorem test_decode_noise :
    decode 0x32 [0x40, 0x80, 0xEE] = .instr (.noise false 0x40 0x80) ∧
    decode 0x33 [0x40, 0x80, 0xEE] = .instr (.noise true 0x40 0x80) := by decide
theorem test_decode_oscillator :
    decode 0x34 [0x7c, 0x40, 0x0, 0x41, 0x42, 0x80, 0x10, 0xEE] = .instr (.oscillator false 0x7C 0x40 0 0x41 0x42 0x80 0x10 none) ∧
    decode 0x35 [0x7c, 0x40, 0x0, 0x41, 0x42, 0x80, 0x10, 0xEE] = .instr (.oscillator true 0x7C 0x40 0 0x41 0x42 0x80 0x10 none) := by decide
theorem test_decode_loadval :
    decode 0x36 [0x60, 0xEE] = .instr (.loadval false 0x60) ∧
    decode 0x37 [0x60, 0xEE] = .instr (.loadval true 0x60) := by decide
theorem test_decode_receive :
    decode 0x38 [0xEE] = .instr (.receive false) ∧
    decode 0x39 [0xEE] = .instr (.receive true) := by decide
theorem test_decode_input :
    decode 0x3A [0x2, 0xEE] = .instr (.input false 2) ∧
    decode 0x3B [0x2, 0xEE] = .instr (.input true 2) := by decide
theorem test_decode_sync :
    decode 0x3C [0xEE] = .instr (.sync false) ∧
    decode 0x3D [0xEE] = .instr (.sync true) := by decide
theorem test_decode_oscillator_gate :
    decode 0x34 [0x7C, 0x40, 0x00, 0x40, 0x40, 0x80, 0x04, 0x01, 0x80] =
      .instr (.oscillator false 124 64 0 64 64 128 4 (some 0x8001)) := by decide
theorem test_decode_illegal : decode 0x3E [] = .illegal 0x3E ∧ decode 0xFF [] = .illegal 0xFF := by decide
theorem test_decode_ended :
    decode 0x2E [0x60, 0x38] = .ended 23 ∧
    decode 0x34 [0x7C, 0x40, 0x00, 0x40, 0x40, 0x80, 0x04, 0x01] = .ended 26 := by decide
theorem test_encode_send : encode (.send false 96 0x8438) = (0x2E, [0x60, 0x38, 0x84]) := by decide
theorem test_decodeTableWord_pads_with_zeros :
    decodeTableWord 16 0x602E = some (.send false 0x60 0) := by decide

/-! ### Numbers -/

theorem test_constants :
    [ofInt 1, ofInt 2, ofInt 3, ofInt 12, ofInt 16, ofInt 64, ofInt (-1), ofInt (-24), ofInt 32767,
      ofInt (-2147483648), divAt 0 f1 f2, divAt 0 f3 f2, divAt 0 (ofInt 255) (ofInt 256),
      divAt 0 f1 f12] =
    [f1, f2, f3, f12, f16, f64, fNeg1, fNeg24, f32767, fNegTwo31, fHalf, f1_5, dcPole, twelfth] := by
  decide +kernel
/-- R15: the decimal literals rounded to binary32. -/
theorem test_decimal_constants :
    roundRat false (92696138 * 2 ^ 149) (10 ^ 12) = cAudio ∧
    roundRat false (38 * 2 ^ 149) (10 ^ 6) = cLfo ∧
    roundRat false (2206896551724138 * 2 ^ 149) (10 ^ 15) = kSpeed ∧
    roundRat false (6283185307179586 * 2 ^ 149) (10 ^ 15) = twoPi := by decide +kernel
/-- V-SRC-4, the second and third draw. -/
theorem test_rand_draws :
    divAt 0 (ofInt 256224049) fNegTwo31 = 0xBDF45AB3 ∧
    divAt 0 (ofInt (-315415337)) fNegTwo31 = 0x3E1666D9 := by decide +kernel
/-- R14: a subnormal product and sum are kept. -/
theorem test_subnormal_kept :
    mulAt 0 0x00800000 fHalf = 0x00400000 ∧ addAt 0 0x00400000 0x00400000 = 0x00800000 := by decide +kernel
theorem test_overflow_to_infinity :
    addAt 0 0x7F7FFFFF 0x7F7FFFFF = 0x7F800000 ∧ divAt 0 f1 f0 = 0x7F800000 := by decide +kernel
theorem test_crush_ties :
    roundInt .awayFromZero 0x40200000 = 3 ∧ roundInt .toEven 0x40200000 = 2 ∧
    roundInt .awayFromZero 0xC0200000 = -3 ∧ roundInt .toEven 0x3FC00000 = 2 := by decide +kernel
theorem test_floor : floorNumber 0xBF000000 = fNeg1 ∧ floorNumber 0x40200000 = f2 := by decide +kernel

/-! ### One instruction on a small state -/

/-- Reset with a stack. -/
def withStack (stk : List F32) : State := { State.reset with stk := stk }

/-- The state after an instruction. -/
def after (i : Instr) (s : State) : State :=
  match exec i s with
  | .next t => t
  | _ => s

/-- The fault an instruction ended with. -/
def faultOf (s : State) : Option RenderError :=
  match s.result with
  | some (.rendered _ _ _ (.faulted e _)) => some e
  | _ => none

/-- The state after one step. -/
def stepped (s : State) : State :=
  match step s with
  | .next t => t
  | _ => s


/-- V-STK-1, V-STK-2 -/
theorem test_add : (after (.add false) (withStack [0x3F000000, 0x3E800000])).stk = [0x3F400000, 0x3E800000] ∧
    (after (.add true) (withStack [0x40800000, 0x40400000, 0x40000000, 0x3F800000])).stk =
      [0x40C00000, 0x40800000, 0x40000000, 0x3F800000] := by decide +kernel
/-- V-STK-4 -/
theorem test_addp : (after (.addp true) (withStack [0x40800000, 0x40400000, 0x40000000, 0x3F800000])).stk =
    [0x40C00000, 0x40800000] := by decide +kernel
/-- V-STK-5 -/
theorem test_mul : (after (.mul false) (withStack [0x3F000000, 0xBF800000])).stk = [0xBF000000, 0xBF800000] := by decide +kernel
/-- V-STK-7 -/
theorem test_mulp : (after (.mulp true) (withStack [0xBF800000, 0x3F800000, 0x3F000000, 0x3F000000])).stk =
    [0xBF000000, 0x3F000000] := by decide +kernel
/-- V-STK-9 -/
theorem test_xch : (after (.xch true) (withStack [4, 3, 2, 1])).stk = [2, 1, 4, 3] := by decide +kernel
/-- V-STK-11 -/
theorem test_push : (after (.push true) (withStack [0x3F000000, 0x3E800000])).stk =
    [0x3F000000, 0x3E800000, 0x3F000000, 0x3E800000] := by decide +kernel
/-- V-STK-17 -/
theorem test_push_full : faultOf (after (.push false) { withStack [1, 2, 3, 4] with
      cfg := { stackSpare := 0, roundTie := .toEven } }) = some (.renderFault .stackOverflow) := by decide +kernel
/-- V-STK-12 -/
theorem test_pop : (after (.pop false) (withStack [0x3F000000, 0x3E800000])).stk = [0x3E800000] := by decide +kernel
/-- V-SRC-1 -/
theorem test_loadval : (after (.loadval true 96) (withStack [])).stk = [0x3F000000, 0x3F000000] := by decide +kernel
theorem test_loadval_255 : (after (.loadval false 255) (withStack [])).stk = [0x403F0000] := by decide +kernel
/-- V-SRC-2 -/
theorem test_loadnote : (after (.loadnote false) (hostTrigger 0 96 (withStack []))).stk = [0x3F000000] := by decide +kernel
/-- V-SRC-4 -/
theorem test_noise : (after (.noise false 64 128) (withStack [])).stk = [0xB6FA1C00] ∧
    (after (.noise false 64 128) (withStack [])).randSeed = 0x3E87 := by decide +kernel
theorem test_noise_stereo : (after (.noise true 64 128) (withStack [])).stk = [0xBDF45AB3, 0xB6FA1C00] := by decide +kernel
/-- V-SRC-3 -/
theorem test_receive : (after (.receive true) (writePort (writePort (withStack []) 0 0 0 0x3F000000) 0 0 1 0xBE800000)).stk =
    [0x3F000000, 0xBE800000] := by decide +kernel
theorem test_receive_clears : readPort (after (.receive true) (writePort (withStack []) 0 0 1 0xBE800000)) 0 0 1 = f0 := by decide +kernel
/-- R444's example -/
theorem test_in : (after (.input true 2) (writeOutput (writeOutput (withStack []) 2 0x3F000000) 3 0x3E800000)).stk =
    [0x3F000000, 0x3E800000] := by decide +kernel
/-- V-SRC-5 -/
theorem test_in_range : faultOf (after (.input true 7) (withStack [])) = some (.renderFault .channelRange) ∧
    faultOf (after (.input false 7) (withStack [])) = none := by decide +kernel
/-- V-SNK-2 -/
theorem test_out : (after (.out true 64) (withStack [0xBF800000, 0x3F800000])).outputs.toList.take 2 =
    [0xBF000000, 0x3F000000] := by decide +kernel
/-- V-SNK-3s -/
theorem test_outaux : (after (.outaux true 128 64) (withStack [0x3F000000, 0x3E800000])).outputs.toList.take 4 =
    [0x3F000000, 0x3E800000, 0x3E800000, 0x3E000000] := by decide +kernel
/-- V-SNK-4 -/
theorem test_aux : (after (.aux true 128 2) (withStack [0x3F000000, 0x3E800000])).outputs.toList.take 4 =
    [0, 0, 0x3F000000, 0x3E800000] := by decide +kernel
/-- V-TRN-1s -/
theorem test_gain : (after (.gain true 64) (withStack [0xBF800000, 0x3F800000])).stk = [0xBF000000, 0x3F000000] := by decide +kernel
/-- V-TRN-2, V-TRN-2z -/
theorem test_invgain : (after (.invgain false 64) (withStack [0x3F800000])).stk = [0x40000000] ∧
    (after (.invgain false 0) (withStack [0x3F800000])).stk = [0x7F800000] := by decide +kernel
/-- V-TRN-3s, V-TRN-3n -/
theorem test_clip : (after (.clip true) (withStack [0xC0000000, 0x3FC00000])).stk = [0xBF800000, 0x3F800000] ∧
    (after (.clip false) (withStack [0x7FC00001])).stk = [0x7FC00001] := by decide +kernel
/-- V-TRN-4 -/
theorem test_crush : (after (.crush false 16) (withStack [0x3E99999A])).stk = [0x3E800000] := by decide +kernel
/-- V-TRN-7, V-TRN-7c -/
theorem test_distort : (after (.distort false 96) (withStack [0x3F000000])).stk = [0x3F400000] ∧
    (after (.distort false 0) (withStack [0x3F000000])).stk = [0] := by decide +kernel
/-- V-TRN-5 -/
theorem test_pan : (after (.pan false 32) (withStack [0x3F800000])).stk = [0x3E800000, 0x3F400000] := by decide +kernel
/-- P2: attack rate 1 reaches level 1 and goes to Decay. -/
theorem test_envelope : (after (.envelope false 0 0 128 0 128) (withStack [])).stk = [f1] ∧
    readState (after (.envelope false 0 0 128 0 128) (withStack [])) 0 0 0 = f1 := by decide +kernel
/-- P2: after Release the level falls to 0 at once. -/
theorem test_envelope_release : (after (.envelope false 0 0 128 0 128)
      (writeState (hostRelease 0 (withStack [])) 0 0 1 f1)).stk = [f0] := by decide +kernel
/-- V-MOD-6 -/
theorem test_hold : (after (.hold true 64) (withStack [0x41A00000, 0x41200000])).stk = [0x41A00000, 0x41200000] ∧
    readState (after (.hold true 64) (withStack [0x41A00000, 0x41200000])) 0 0 1 = 0x3F400000 := by decide +kernel
/-- V-MOD-9 -/
theorem test_filter : (after (.filter true 64 128 0x10) (withStack [0x3F000000, 0x3F800000])).stk =
    [0x3F000000, 0x3F800000] ∧
    readState (after (.filter true 64 128 0x10) (withStack [0x3F000000, 0x3F800000])) 0 0 3 = 0x3E800000 := by decide +kernel
/-- V-MOD-8, flags 0x30 -/
theorem test_filter_taps : (filterTaps 0x30 0x3D800000 0x3ED80000 0x3F300000 0).1 = 0x3F8E0000 := by decide +kernel
/-- V-MOD-10, third row -/
theorem test_compressor : (after (.compressor false 0 0 128 128 128) (withStack [0x3F000000])).stk = [f1, 0x3F000000] ∧
    readState (after (.compressor false 0 0 128 128 128) (withStack [0x3F000000])) 0 0 0 = 0x3E800000 := by decide +kernel
/-- V-RTE-2 -/
theorem test_send : readPort (after (.send false 96 0x0038) (withStack [f1])) 0 2 0 = 0x3F000000 ∧
    (after (.send false 96 0x0038) (withStack [f1])).stk = [] := by decide +kernel
/-- V-RTE-1 -/
theorem test_send_addresses :
    resolveSend 0x8438 false 0 = .ok (1, 2, 0) ∧ resolveSend 0xFFFF false 0 = .ok (31, 30, 7) ∧
    resolveSend 0x0230 false 5 = .ok (5, 2, 0) ∧ resolveSend 0x8014 false 3 = .ok (0, 0, 4) ∧
    resolveSend 0x0017 true 0 = .error (.renderFault .portRange) ∧
    resolveSend 0x0007 false 0 = .error (.renderFault .sendTarget) ∧
    resolveSend 0x8000 false 0 = .error (.renderFault .sendTarget) := ⟨rfl, rfl, rfl, rfl, rfl, rfl, rfl⟩
/-- V-RTE-7 -/
theorem test_speed : (after (.speed false) (withStack [f0])).time = 0 ∧
    (after (.speed false) (withStack [f0])).stk = [] := by decide +kernel
/-- A carried remainder of 1.25 gives n = 1 and leaves 0.25 (R524). -/
theorem test_speed_carry : (after (.speed true) (writeState (withStack [f0]) 0 0 0 0x3FA00000)).time = 1 ∧
    readState (after (.speed true) (writeState (withStack [f0]) 0 0 0 0x3FA00000)) 0 0 0 = 0x3E800000 := by decide +kernel
/-- R524: a NaN control signal makes the accumulator NaN, whatever `P_EXP2` does. -/
theorem test_speed_nan (carried : F32) (d : Nat) :
    isNaN (speedAcc carried 0x7FC00000 d).1 = true := by
  have h : isNaN 0x7FC00000 = true := by decide
  simp only [speedAcc, num_bind, fmul_run, fsub_run, fadd_run, h, if_true]
  exact isNaN_addAt (.inr (isNaN_subAt (isNaN_mulAt (.inr h))))
/-- R526's example -/
theorem test_sync : (after (.sync false) { withStack [0x3F000000] with syncBuffer := [7, 7], syncPos := 1 }).syncBuffer =
    [7, 0x3F000000] := by decide +kernel
theorem test_sync_not_due : (after (.sync false) { withStack [0x3F000000] with globalTime := 255 }).syncPos = 0 := by decide +kernel

/-- A state for `delay`: one line with an impulse written one sample ago, two table entries. -/
def delayState : State :=
  { withStack [f0] with
    globalTime := 1
    patch := { emptyPatch with delayTimes := [1, 3] }
    lines := [{ zeroLine with buffer := [(0, f1)] }] }

/-- R544 example 3, sample 1 -/
theorem test_delay : (after (.delay false 128 0 64 0 64 0 1) delayState).stk = [f1] ∧
    (after (.delay false 128 0 64 0 64 0 1) delayState).lines.map (·.dampState) = [0x3F000000] := by decide +kernel
theorem test_delay_ring : (after (.delay false 128 0 64 0 64 0 1) delayState).lines.map (·.buffer) =
    [[(0, f1), (1, 0x3E800000)]] := by decide +kernel
/-- V-DLY-6 -/
theorem test_tapIndex : tapIndex 1 2 = 65535 := by decide +kernel
/-- LFO pulse at pitch 0: the accumulator is `C_LFO` and the pulse is high (R562, R567). -/
theorem test_oscillator : (after (.oscillator false 64 64 0 64 64 128 0x18 none) (withStack [])).stk = [f1] ∧
    readState (after (.oscillator false 64 64 0 64 64 128 0x18 none) (withStack [])) 0 0 0 = cLfo := by decide +kernel
/-- R572's trisaw row, sample 0: phase 0.25 + 0.0029662763699889183, color 0.5. -/
theorem test_oscillator_trisaw :
    (waveAmp .trisaw fHalf (addAt 0 0x3B4265DC 0x3E800000) 0).1 = 0x3C426600 := by decide +kernel
/-- V-OSC-1 gate row, sample 0: the smoother's first output. -/
theorem test_oscillator_gate : (addAt 0 f1 (mulAt 0 dcPole (subAt 0 f0 f1))) = 0x3B800000 := by decide +kernel
/-- P6's share bit: voice 1 runs voice 0's program again. -/
theorem test_advance_shared :
    let s : State := { State.reset with
      patch := { emptyPatch with numVoices := 2, polyphonyBitmask := 2 }, vr := 2, cc := 3, vc := 1, ui := 2 }
    (after (.advance false) s).cc = 0 ∧ (after (.advance false) s).vi = 1 ∧
      (after (.advance false) s).ui = 0 := by decide +kernel
theorem test_advance_next :
    let s : State := { State.reset with
      patch := { emptyPatch with numVoices := 2 }, vr := 2, cc := 3, vc := 1, ui := 2 }
    (after (.advance true) s).cc = 3 ∧ (after (.advance true) s).cci = 3 ∧
      (after (.advance true) s).vci = 1 := by decide +kernel

/-! ### Install and the sample loop -/

/-- V-DLY-7, the oscillator row: the walk skips the gate bytes. -/
theorem test_requiredLines_gate :
    requiredLines { emptyPatch with
      commands := [0x34, 0x22, 0x00]
      values := [0, 0, 0, 0, 0, 0, 4, 0xFF, 0xFF, 0, 0, 0, 0, 0, 0, 5]
      numVoices := 1 } = 5 := by decide +kernel
/-- V-DLY-7, the shared and the exhausted row. -/
theorem test_requiredLines_shared :
    requiredLines { emptyPatch with
      commands := [0x36, 0x22, 0x28, 0x00]
      values := [128, 0, 0, 0, 0, 0, 0, 1, 128]
      numVoices := 2, polyphonyBitmask := 2 } = 2 ∧
    requiredLines { emptyPatch with
      commands := [0x36, 0x22], values := [0, 0, 0, 0, 0, 0], numVoices := 1 } = 0 := by decide +kernel
/-- The checks of R602 that a short patch can fail. -/
theorem test_validate :
    validate { emptyPatch with numVoices := 33 } = some .tooManyVoices ∧
    validate { emptyPatch with commands := [0x3E] } = some .unknownOpcode ∧
    validate { emptyPatch with commands := List.replicate 64 0x0E } = some .tooManyUnits ∧
    validate { emptyPatch with commands := List.replicate 63 0x0E ++ [0x00, 0x0E] } = none := by decide +kernel

/-- The patch of scenario 2. -/
def p1 : BytePatch :=
  { commands := [0x36, 0x28, 0x00], values := [96, 128], delayTimes := [], numVoices := 1
    polyphonyBitmask := 0 }

/-- A core that the host has asked to install `p1` and to render one sample. -/
def hosted : State :=
  { State.reset with hostQueue := [.create p1, .render [7, 7] [7] 1] }

/-- Inside the sample step of that call, before the first fetch. -/
def inStep : State := stepped (stepped (stepped hosted))

theorem test_loop_begins : inStep.phase = .sampleStep ∧ inStep.vr = 1 ∧ inStep.syncs = 1 ∧
    inStep.syncBuffer = [0] ∧ inStep.stk = [0, 0, 0, 0] := by decide +kernel
theorem test_step_loadval : (stepped inStep).stk = [0x3F000000, 0, 0, 0, 0] ∧ (stepped inStep).cc = 1 ∧
    (stepped inStep).vc = 1 ∧ (stepped inStep).ui = 1 := by decide +kernel
/-- P1: the emitted sample. -/
theorem test_end_of_step :
    (stepped { inStep with vr := 0, outputs := inStep.outputs.set 0 0x3F000000 }).buffer =
      [0x3F000000, 0] := by decide +kernel
theorem test_withFetchWord : (stepped (State.reset.withFetchWord 16 0x6036)).stk =
    [0x3F000000, 0, 0, 0, 0] := by decide +kernel
/-- An illegal opcode poisons the core and is named in the record (R710). -/
theorem test_fault_record :
    (stepped (State.reset.withFetchWord 8 0x3E)).poisoned = true ∧
    (stepped (State.reset.withFetchWord 8 0x3E)).result = some (.rendered 0 0 0
      (.faulted (.invalidOpcode 0x3E) { cmdIndex := some 0, cmdByte := some 0x3E, voice := 0, unit := 0, time := 0 })) := by
  decide +kernel

/-! ### Witnesses: states that meet the hypotheses of the statements, clause by clause, at the ends of
their ranges. `edge` is a state whose unit is the last one, with a stack capacity of 4. -/

/-- A state at unit 62 with stack capacity 4. -/
def edge (stk : List F32) : State :=
  { State.reset with stk := stk, ui := 62, cfg := { stackSpare := 0, roundTie := .toEven } }

/-- A state inside a sample step with a given program, at unit 62. -/
def running (commands values : List Byte) (cc vc : Nat) : State :=
  { edge [f1] with
    phase := .sampleStep, vr := 1, cc := cc, vc := vc
    patch := { emptyPatch with commands := commands, values := values, numVoices := 1 } }

/-- A state with `n` delay lines and the DelayTimes entries `es`. -/
def withLines (n : Nat) (es : List Half) (stk : List F32) : State :=
  { edge stk with
    lines := List.replicate n zeroLine, patch := { emptyPatch with delayTimes := es } }

/-- Whether an outcome is a next state. -/
def goes (o : Host.Outcome State Fault Refusal) : Bool :=
  match o with
  | .next _ => true
  | _ => false

theorem step_stepped {s : State} (h : goes (step s) = true) : step s = .next (stepped s) := by
  unfold stepped
  cases hs : step s with
  | next t => rfl
  | fault f => simp [hs, goes] at h
  | refused r => simp [hs, goes] at h

theorem exec_after {i : Instr} {s : State} (h : goes (exec i s) = true) :
    exec i s = .next (after i s) := by
  unfold after
  cases hs : exec i s with
  | next t => rfl
  | fault f => simp [hs, goes] at h
  | refused r => simp [hs, goes] at h

theorem witness_DecodeEncode :
    (Instr.oscillator true 1 2 3 4 5 6 0xFF (some 0xFFFF)).wellFormed = true ∧
    (Instr.oscillator true 1 2 3 4 5 6 0xFB none).wellFormed = true ∧
    (Instr.sync true).wellFormed = true := by decide
theorem witness_EncodeDecode :
    decode 0x00 [] = .instr (.advance false) ∧ decode 0x3D [] = .instr (.sync true) ∧
    decode 0x2E [1, 2, 3] = .instr (.send false 1 0x0302) := by decide
theorem witness_StepRunsDecoded :
    (running [0x36] [96] 0 0).phase = .sampleStep ∧ (running [0x36] [96] 0 0).vr ≠ 0 ∧
    (running [0x36] [96] 0 0).patch.commands[0]? = some 0x36 ∧
    decode 0x36 ((running [0x36] [96] 0 0).patch.values.drop 0) = .instr (.loadval false 96) ∧
    decodeTableWord 16 0x6036 = some (.loadval false 96) := by decide +kernel
theorem witness_FetchFaults :
    (running [0x36] [96] 1 0).phase = .sampleStep ∧ (running [0x36] [96] 1 0).vr ≠ 0 ∧
    (running [0x36] [96] 1 0).patch.commands.length ≤ (running [0x36] [96] 1 0).cc ∧
    (running [0x3E] [96] 0 0).patch.commands[0]? = some 0x3E ∧ 31 ≤ opcodeOf 0x3E := by
  decide +kernel
theorem witness_ValueStreamFaults :
    (running [0x2E] [] 0 0).phase = .sampleStep ∧ (running [0x2E] [] 0 0).vr ≠ 0 ∧
    (running [0x2E] [] 0 0).ui < 63 ∧ 63 ≤ ({ running [0x2E] [] 0 0 with ui := 63 } : State).ui ∧
    (running [0x2E] [] 0 0).patch.commands[0]? = some 0x2E ∧
    opcodeOf 0x2E ≤ 30 ∧ ([] : List Byte).length < groupLength (opcodeOf 0x2E) [] ∧
    ([] : List Byte).length < transformCount (opcodeOf 0x2E) ∧
    [96].length < groupLength (opcodeOf 0x2E) [96] ∧
    transformCount (opcodeOf 0x2E) ≤ [(96 : Byte)].length ∧
    [0, 0, 0, 0, 0, 0, 4, 1].length < groupLength (opcodeOf 0x34) [0, 0, 0, 0, 0, 0, 4, 1] ∧
    transformCount (opcodeOf 0x34) ≤ [(0 : Byte), 0, 0, 0, 0, 0, 4, 1].length := by
  decide +kernel
theorem witness_UnitChecks :
    63 ≤ ({ edge [] with ui := 63 } : State).ui ∧ (∀ b, Instr.add false ≠ .advance b) ∧
    (edge [f1]).ui < 63 ∧ (edge [f1]).stk.length < depthRead (.add false) ∧
    (edge [f1]).stk.length < depthRead (.pan true 0) := by decide +kernel
theorem witness_MaterialiseEffect :
    ([1, 2, 3, 4, 5, 6] : List Byte).length ≤ 6 ∧ (edge []).ui < 63 ∧
    Memory.wf unitWords ((edge []).voices.get (edge []).vi).units = true := by decide +kernel
theorem witness_AdvanceResult :
    ({ edge [] with vr := 1 } : State).vr = 1 ∧
    ({ edge [] with vr := 2 } : State).vr = 0 + 2 ∧
    (BitVec.getLsbD (2 : Word) (0 + 1) = true) ∧
    ({ edge [] with vr := 32 } : State).vr = 30 + 2 ∧
    (BitVec.getLsbD (0x80000000 : Word) (30 + 1) = true) ∧
    (BitVec.getLsbD (0 : Word) (30 + 1) = false) := by decide +kernel
theorem witness_AddMulResult :
    (edge [f1, f2]).ui < 63 ∧ (edge [f1, f2]).stk = f1 :: f2 :: [] ∧
    (edge [f1, f2, f3, f12]).stk = f1 :: f2 :: f3 :: f12 :: [] ∧
    (edge [f1]).stk.length < 2 * ch false ∧ (edge [f1, f2, f3]).stk.length < 2 * ch true := by
  decide +kernel
theorem witness_AddpMulpResult :
    (edge [f1, f2]).ui < 63 ∧ (edge [f1, f2]).stk = f1 :: f2 :: [] ∧
    (edge [f1, f2, f3, f12]).stk = f1 :: f2 :: f3 :: f12 :: [] ∧
    (edge [f1]).stk.length < 2 * ch false ∧ (edge [f1, f2, f3]).stk.length < 2 * ch true := by
  decide +kernel
theorem witness_XchResult :
    (edge [f1, f2]).ui < 63 ∧ (edge [f1, f2]).stk = f1 :: f2 :: [] ∧
    (edge [f1, f2, f3, f12]).stk = f1 :: f2 :: f3 :: f12 :: [] ∧
    (edge [f1]).stk.length < 2 * ch false ∧ (edge [f1, f2, f3]).stk.length < 2 * ch true := by
  decide +kernel
theorem witness_PushResult :
    (edge []).ui < 63 ∧ (edge [f1, f2, f3]).stk = f1 :: [f2, f3] ∧
    (edge [f1, f2, f3]).stk.length < stackCap (edge [f1, f2, f3]) ∧
    stackCap (edge [f1, f2, f3, f12]) ≤ (edge [f1, f2, f3, f12]).stk.length ∧
    (edge [f1, f2]).stk.length + 1 < stackCap (edge [f1, f2]) ∧
    (edge [f1, f2, f3]).stk.length + 1 = stackCap (edge [f1, f2, f3]) ∧
    (edge []).stk.length < ch false ∧ (edge [f1]).stk.length < ch true := by decide +kernel
theorem witness_PopResult :
    (edge [f1]).ui < 63 ∧ (edge [f1]).stk = f1 :: [] ∧ (edge [f1, f2]).stk = f1 :: f2 :: [] ∧
    (edge []).stk.length < ch false ∧ (edge [f1]).stk.length < ch true := by decide +kernel
/-- The room hypotheses that the pushing sources and the envelope share. -/
theorem witness_room :
    (edge [f1]).ui < 63 ∧ (edge [f1, f1, f1]).stk.length < stackCap (edge [f1, f1, f1]) ∧
    (edge [f1, f1]).stk.length + 1 < stackCap (edge [f1, f1]) ∧
    (edge [f1, f1, f1]).stk.length + 1 = stackCap (edge [f1, f1, f1]) ∧
    stackCap (edge [f1, f1, f1, f1]) ≤ (edge [f1, f1, f1, f1]).stk.length := by decide +kernel
theorem witness_ConstantSourcesResult :
    (edge []).ui < 63 ∧ (edge [f1, f1, f1]).stk.length < stackCap (edge [f1, f1, f1]) ∧
    (edge [f1, f1]).stk.length + 1 < stackCap (edge [f1, f1]) ∧
    (edge [f1, f1, f1]).stk.length + 1 = stackCap (edge [f1, f1, f1]) ∧
    stackCap (edge [f1, f1, f1, f1]) ≤ (edge [f1, f1, f1, f1]).stk.length := witness_room
theorem witness_NoiseResult :
    (edge []).ui < 63 ∧ (edge [f1, f1, f1]).stk.length < stackCap (edge [f1, f1, f1]) ∧
    (edge [f1, f1]).stk.length + 1 < stackCap (edge [f1, f1]) ∧
    (edge [f1, f1, f1]).stk.length + 1 = stackCap (edge [f1, f1, f1]) ∧
    stackCap (edge [f1, f1, f1, f1]) ≤ (edge [f1, f1, f1, f1]).stk.length := witness_room
theorem witness_ReceiveResult :
    (edge []).ui < 63 ∧ (edge [f1, f1, f1]).stk.length < stackCap (edge [f1, f1, f1]) ∧
    (edge [f1, f1]).stk.length + 1 < stackCap (edge [f1, f1]) ∧
    (edge [f1, f1, f1]).stk.length + 1 = stackCap (edge [f1, f1, f1]) ∧
    stackCap (edge [f1, f1, f1, f1]) ≤ (edge [f1, f1, f1, f1]).stk.length := witness_room
theorem witness_EnvelopeResult :
    (edge []).ui < 63 ∧ (edge [f1, f1, f1]).stk.length < stackCap (edge [f1, f1, f1]) ∧
    (edge [f1, f1]).stk.length + 1 < stackCap (edge [f1, f1]) ∧
    (edge [f1, f1, f1]).stk.length + 1 = stackCap (edge [f1, f1, f1]) ∧
    stackCap (edge [f1, f1, f1, f1]) ≤ (edge [f1, f1, f1, f1]).stk.length := witness_room
/-- The channel bounds of `in`: 7 and 8 in mono, 6 and 7 in stereo. -/
theorem witness_InResult :
    (edge []).ui < 63 ∧ 8 ≤ (8 : Byte).toNat + false.toNat ∧ 8 ≤ (7 : Byte).toNat + true.toNat ∧
    ((7 : Byte).toNat < 8 ∧ (edge [f1, f1, f1]).stk.length < stackCap (edge [f1, f1, f1])) ∧
    stackCap (edge [f1, f1, f1, f1]) ≤ (edge [f1, f1, f1, f1]).stk.length ∧
    ((6 : Byte).toNat < 7 ∧ (edge [f1, f1]).stk.length + 1 < stackCap (edge [f1, f1])) ∧
    (edge [f1, f1, f1]).stk.length + 1 = stackCap (edge [f1, f1, f1]) := by decide +kernel
theorem witness_OutResult :
    (edge [f1]).ui < 63 ∧ (edge [f1]).stk = f1 :: [] ∧ (edge [f1, f2]).stk = f1 :: f2 :: [] ∧
    (edge []).stk.length < ch false ∧ (edge [f1]).stk.length < ch true := witness_PopResult
theorem witness_OutauxResult :
    (edge [f1]).ui < 63 ∧ (edge [f1]).stk = f1 :: [] ∧ (edge [f1, f2]).stk = f1 :: f2 :: [] ∧
    (edge []).stk.length < ch false ∧ (edge [f1]).stk.length < ch true := witness_PopResult
theorem witness_AuxResult :
    (edge [f1]).ui < 63 ∧ ((edge [f1]).stk = f1 :: [] ∧ (7 : Byte).toNat < 8) ∧
    ((edge [f1, f2]).stk = f1 :: f2 :: [] ∧ (6 : Byte).toNat < 7) ∧
    (ch true ≤ (edge [f1, f2]).stk.length ∧ 8 ≤ (7 : Byte).toNat + true.toNat) ∧
    (ch false ≤ (edge [f1]).stk.length ∧ 8 ≤ (8 : Byte).toNat + false.toNat) ∧
    (edge []).stk.length < ch false ∧ (edge [f1]).stk.length < ch true := by decide +kernel
theorem witness_GainInvgainResult :
    (edge [f1]).ui < 63 ∧ (edge [f1]).stk = f1 :: [] ∧ (edge [f1, f2]).stk = f1 :: f2 :: [] ∧
    (edge []).stk.length < ch false ∧ (edge [f1]).stk.length < ch true := witness_PopResult
/-- The bounds of `clip`: just above 1, just below -1, 1 itself, a NaN. -/
theorem witness_ClipResult :
    (edge [f1]).ui < 63 ∧ flt f1 0x3F800001 = true ∧ flt 0xBF800001 fNeg1 = true ∧
    (flt f1 f1 = false ∧ flt f1 fNeg1 = false) ∧ isNaN 0x7F800001 = true ∧
    (edge [f1]).stk = f1 :: [] ∧ (edge [f1, f2]).stk = f1 :: f2 :: [] ∧
    (edge []).stk.length < ch false ∧ (edge [f1]).stk.length < ch true := by decide +kernel
theorem witness_CrushDistortResult :
    (edge [f1]).ui < 63 ∧ (edge [f1]).stk = f1 :: [] ∧ (edge [f1, f2]).stk = f1 :: f2 :: [] ∧
    (edge []).stk.length < ch false ∧ (edge [f1]).stk.length < ch true := witness_PopResult
/-- The tie at 2.5 between 2 and 3, and values of both kinds. -/
theorem witness_CrushDistortResult_helpers :
    isFinite 0x40200000 = true ∧
    roundInt .awayFromZero 0x40200000 = 3 ∧ roundInt .toEven 0x40200000 = 2 ∧
    (scaled 0x40200000 - 2 * 2 ^ 149).natAbs = (scaled 0x40200000 - 3 * 2 ^ 149).natAbs ∧
    truncInt 0xC0200000 = -2 ∧ floorNumber 0xC0200000 = 0xC0400000 ∧
    isFinite 0x7F800000 = false ∧ isNaN 0xBF800000 = false := by decide +kernel
theorem witness_PanResult :
    (edge [f1]).ui < 63 ∧
    ((edge [f1, f2, f3]).stk = f1 :: [f2, f3] ∧
      (edge [f1, f2, f3]).stk.length < stackCap (edge [f1, f2, f3])) ∧
    ((edge [f1, f1, f1, f1]).stk ≠ [] ∧
      stackCap (edge [f1, f1, f1, f1]) ≤ (edge [f1, f1, f1, f1]).stk.length) ∧
    (edge [f1, f2]).stk = f1 :: f2 :: [] ∧
    (edge []).stk.length < ch false ∧ (edge [f1]).stk.length < ch true := by decide +kernel
theorem witness_EnvelopeStages : isNaN f0 = false ∧ isNeg f0 = false := by decide +kernel
theorem witness_HoldResult :
    (edge [f1]).ui < 63 ∧ Memory.wf unitWords ((edge [f1]).voices.get (edge [f1]).vi).units = true ∧
    (edge [f1]).stk = f1 :: [] ∧ (edge [f1, f2]).stk = f1 :: f2 :: [] ∧
    (edge []).stk.length < ch false ∧ (edge [f1]).stk.length < ch true := by decide +kernel
theorem witness_FilterResult :
    (edge [f1]).ui < 63 ∧ Memory.wf unitWords ((edge [f1]).voices.get (edge [f1]).vi).units = true ∧
    (edge [f1]).stk = f1 :: [] ∧ (edge [f1, f2]).stk = f1 :: f2 :: [] ∧
    (edge []).stk.length < ch false ∧ (edge [f1]).stk.length < ch true := witness_HoldResult
theorem witness_CompressorResult :
    (edge [f1]).ui < 63 ∧
    ((edge [f1, f2, f3]).stk = f1 :: [f2, f3] ∧
      (edge [f1, f2, f3]).stk.length < stackCap (edge [f1, f2, f3])) ∧
    ((edge [f1, f2, f3, f12]).stk = f1 :: f2 :: [f3, f12] ∧
      stackCap (edge [f1, f2, f3, f12]) ≤ (edge [f1, f2, f3, f12]).stk.length) ∧
    ((edge [f1, f2]).stk = f1 :: f2 :: [] ∧
      (edge [f1, f2]).stk.length + 1 < stackCap (edge [f1, f2])) ∧
    (edge [f1, f2, f3]).stk.length + 1 = stackCap (edge [f1, f2, f3]) ∧
    (edge []).stk.length < ch false ∧ (edge [f1]).stk.length < ch true := by decide +kernel
theorem witness_SendAddress :
    ((0x8000 : Half).extractLsb' 4 5).toNat = 0 ∧ ((0x800F : Half).extractLsb' 4 5).toNat = 0 ∧
    (((0x0017 : Half).extractLsb' 4 5).toNat ≠ 0 ∧
      8 ≤ ((0x0017 : Half).extractLsb' 0 3).toNat + true.toNat) ∧
    (((0xFFFF : Half).extractLsb' 4 5).toNat ≠ 0 ∧
      ((0xFFFF : Half).extractLsb' 0 3).toNat + false.toNat < 8) ∧
    (((0x8010 : Half).extractLsb' 4 5).toNat ≠ 0 ∧
      ((0x8010 : Half).extractLsb' 0 3).toNat + true.toNat < 8) := by decide +kernel
theorem witness_SendResult :
    (edge [f1]).ui < 63 ∧ (edge [f1]).stk = f1 :: [] ∧ (edge [f1, f2]).stk = f1 :: f2 :: [] ∧
    (∀ w : Fin 32, Memory.wf unitWords ((edge [f1]).voices.get w).units = true) ∧
    ch false ≤ (edge [f1]).stk.length ∧ ch true ≤ (edge [f1, f2]).stk.length ∧
    (edge []).stk.length < ch false ∧ (edge [f1]).stk.length < ch true := by decide +kernel
/-- The addresses and the completion that SendResult's clauses speak of. -/
theorem witness_SendResult_targets :
    resolveSend 0xFFFF false (edge [f1]).vi = .ok (31, 30, 7) ∧
    resolveSend 0x0016 true (edge [f1]).vi = .ok (0, 0, 6) ∧
    resolveSend 0x0017 true (edge [f1]).vi = .error (.renderFault .portRange) ∧
    exec (.send false 96 0xFFFF) (edge [f1]) = .next (after (.send false 96 0xFFFF) (edge [f1])) :=
  ⟨rfl, rfl, rfl, exec_after (by decide +kernel)⟩
/-- `speed`: a finite accumulator, one that is not, and a NaN control signal. -/
theorem witness_SpeedResult :
    (edge [f0]).ui < 63 ∧ (edge [f0]).stk = f0 :: [] ∧ isNaN 0x7FC00000 = true ∧
    isNaN f0 = false ∧
    isFinite (addAt 3 (addAt 2 (readState (edge [f0]) 0 62 0)
      (subAt 1 (exp2F (mulAt 0 kSpeed f0)) f1)) f1_5) = true ∧
    isFinite (addAt 3 (addAt 2 (readState (writeState (edge [f0]) 0 62 0 0x7F800000) 0 62 0)
      (subAt 1 (exp2F (mulAt 0 kSpeed f0)) f1)) f1_5) = false := by decide +kernel
theorem witness_SyncResult :
    (edge [f1]).ui < 63 ∧ (edge [f1]).stk = f1 :: [] ∧
    (({ edge [f1] with globalTime := 256, syncBuffer := [0] } : State).globalTime.toNat % 256 = 0 ∧
      ({ edge [f1] with globalTime := 256, syncBuffer := [0] } : State).syncPos < 1) ∧
    (edge [f1]).syncBuffer.length ≤ (edge [f1]).syncPos ∧
    ({ edge [f1] with globalTime := 255 } : State).globalTime.toNat % 256 ≠ 0 := by decide +kernel
theorem witness_DelayOneLine :
    (withLines 1 [65535] [f1]).ui < 63 ∧
    Memory.wf unitWords ((withLines 1 [65535] [f1]).voices.get 0).units = true ∧
    (withLines 1 [65535] [f1]).stk = f1 :: [] ∧
    (withLines 1 [65535] [f1]).lines[(withLines 1 [65535] [f1]).dl]? = some zeroLine ∧
    (withLines 1 [65535] [f1]).patch.delayTimes[(0 : Byte).toNat]? = some 65535 := by decide +kernel
/-- A stereo pitched `delay` with one line per channel; an unpitched one with three. -/
theorem witness_DelayCompletes :
    (2 : Byte).toNat / 2 ≠ 0 ∧ (3 : Byte).toNat ≠ 0 ∧
    (withLines 2 [1, 65535] [f1, f2]).ui < 63 ∧
    Memory.wf unitWords ((withLines 2 [1, 65535] [f1, f2]).voices.get 0).units = true ∧
    ch true ≤ (withLines 2 [1, 65535] [f1, f2]).stk.length ∧
    (withLines 2 [1, 65535] [f1, f2]).dl + ch true * (2 / 2) ≤
      (withLines 2 [1, 65535] [f1, f2]).lines.length ∧
    (0 : Byte).toNat + ch true * (2 / 2) ≤
      (withLines 2 [1, 65535] [f1, f2]).patch.delayTimes.length ∧
    (withLines 3 [1, 2, 3] [f1]).dl + ch false * 3 ≤ (withLines 3 [1, 2, 3] [f1]).lines.length ∧
    (0 : Byte).toNat + ch false * 3 ≤ (withLines 3 [1, 2, 3] [f1]).patch.delayTimes.length := by
  decide +kernel
theorem witness_DelayFaults :
    (withLines 1 [] [f1]).ui < 63 ∧ ch false ≤ (withLines 1 [] [f1]).stk.length ∧
    ((0 : Byte).toNat / 2 = 0) ∧
    (withLines 0 [] [f1]).lines.length ≤ (withLines 0 [] [f1]).dl ∧
    (withLines 1 [] [f1]).dl < (withLines 1 [] [f1]).lines.length ∧
    (withLines 1 [] [f1]).patch.delayTimes.length ≤ (0 : Byte).toNat := by decide +kernel
/-- A three-line `delay` with two lines, and one with two entries: both fault at line 2. -/
theorem witness_DelayFaults_later :
    (2 : Nat) < ch false * 3 ∧
    Memory.wf unitWords ((withLines 2 [1, 2, 3] [f1]).voices.get 0).units = true ∧
    (withLines 2 [1, 2, 3] [f1]).dl + 2 = (withLines 2 [1, 2, 3] [f1]).lines.length ∧
    (0 : Byte).toNat + 2 ≤ (withLines 2 [1, 2, 3] [f1]).patch.delayTimes.length ∧
    (withLines 3 [1, 2] [f1]).dl + 2 < (withLines 3 [1, 2] [f1]).lines.length ∧
    (0 : Byte).toNat + 2 = (withLines 3 [1, 2] [f1]).patch.delayTimes.length := by decide +kernel
/-- One line whose port 4 holds an infinity. -/
theorem witness_DelayFaults_line :
    let s := writePort (withLines 1 [7] [f1]) 0 62 4 0x7F800000
    s.dl < s.lines.length ∧ s.patch.delayTimes[0]? = some 7 ∧
    isFinite (addAt (s.draws + 1) (ofInt (7 : Half).toNat)
      (mulAt s.draws (readPort s s.vi s.ui 4) f32767)) = false := by decide +kernel
theorem witness_OscillatorResult :
    (edge [f1, f1, f1]).ui < 63 ∧
    Memory.wf unitWords ((edge [f1, f1, f1]).voices.get 0).units = true ∧
    (0x18 : Byte).toNat % 4 = 0 ∧ (0x04 : Byte).toNat % 4 = 0 ∧
    (edge [f1, f1, f1]).stk.length < stackCap (edge [f1, f1, f1]) ∧
    selectWave 0x18 ≠ .gate ∧ selectWave 0x04 = .gate := by decide +kernel
theorem witness_OscillatorCompletes :
    (edge [f1, f1]).ui < 63 ∧
    (∀ v : Fin 32, Memory.wf unitWords ((edge [f1, f1]).voices.get v).units = true) ∧
    (edge [f1, f1]).stk.length + ch true ≤ stackCap (edge [f1, f1]) ∧
    (edge [f1, f1, f1]).stk.length + ch false ≤ stackCap (edge [f1, f1, f1]) ∧
    selectWave 0x43 ≠ .gate ∧ selectWave 0x07 = .gate := by decide +kernel
/-- An oscillator in LFO mode at pitch 0, where `Exp2F` is known. -/
def lfoStart (s : State) : OscPoint :=
  { state := { operandsRead [64, 64, 0, 64, 64, 128] 3 s with draws := 2 }
    detune := f0, phaseParam := readParam (operandsRead [64, 64, 0, 64, 64, 128] 3 s) 2, output := f0 }
/-- A Gate with two partials that run, and the room clauses. -/
theorem witness_OscillatorPartials :
    (edge [f1, f1, f1]).ui < 63 ∧ selectWave 0x43 ≠ .gate ∧ selectWave 0x0D = .gate ∧
    (∀ j, j < 2 →
      isFinite (((lfoStart (edge [])).partials 0x0D 1 0 j).gateStep 0x0D 0 j) = true) ∧
    (edge [f1, f1, f1]).stk.length < stackCap (edge [f1, f1, f1]) ∧
    stackCap (edge [f1, f1, f1, f1]) ≤ (edge [f1, f1, f1, f1]).stk.length ∧
    (edge [f1, f1]).stk.length + 1 < stackCap (edge [f1, f1]) ∧
    (edge [f1, f1, f1]).stk.length + 1 = stackCap (edge [f1, f1, f1]) := by decide +kernel
/-- A Gate step is not finite where the accumulator's slot holds an infinity. -/
theorem gateStep_nan {flags : Byte} {i j : Nat} {p : OscPoint}
    (h : isNaN (p.accumulator flags i j) = true) : isFinite (p.gateStep flags i j) = false :=
  isFinite_of_isNaN (isNaN_addAt (.inl (isNaN_mulAt (.inl (isNaN_subAt (isNaN_addAt (.inl h)))))))
theorem accumulator_nan {flags : Byte} {i j : Nat} {p : OscPoint}
    (h : addAt (p.op flags) (readState p.state p.state.vi p.state.ui (i + 2 * j)) (p.omega flags) =
      0x7F800000) : isNaN (p.accumulator flags i j) = true := by
  have up : ∀ d, addAt d 0x7F800000 f1 = 0x7F800000 := fun d => by
    rw [addAt, if_neg (by decide), if_pos (by decide), if_neg (by decide)]
  have down : ∀ d, subAt d 0x7F800000 f1 = 0x7F800000 := fun d => by
    rw [subAt, addAt, if_neg (by decide), if_pos (by decide), if_neg (by decide)]
  have level : ∀ d, floorAt d 0x7F800000 = 0x7F800000 := fun d => by
    rw [floorAt, if_neg (by decide)]
    decide
  simp only [OscPoint.accumulator, h, up, level, down]
  rw [subAt, addAt, if_neg (by decide), if_pos (by decide), if_pos (by decide)]
  exact isNaN_nan _
/-- A Gate that stops in channel 0, and one that stops in channel 1 alone. -/
theorem witness_OscillatorPartials_stops :
    isFinite ((lfoStart (writeState (edge []) 0 62 0 0x7F800000)).gateStep 0x0C 0 0) = false ∧
    isFinite ((lfoStart (writeState (edge []) 0 62 1 0x7F800000)).gateStep 0x0C 0 0) = true ∧
    isFinite ((lfoStart (writeState (edge []) 0 62 1 0x7F800000)).gateStep 0x0C 1 0) = false :=
  ⟨gateStep_nan (accumulator_nan (by decide +kernel)), by decide +kernel,
    gateStep_nan (accumulator_nan (by decide +kernel))⟩
theorem witness_OscillatorWaves :
    flt f0 f1 = true ∧ flt f1 f1 = false ∧ fle f1 f1 = true ∧ fle f1 f0 = false ∧
    isNaN 0x7FC00000 = true := by decide +kernel
theorem witness_CreateResult :
    hosted.phase = .idle ∧ hosted.hostQueue = .create p1 :: [.render [7, 7] [7] 1] ∧
    validate p1 = none ∧ validate { p1 with numVoices := 33 } = some .tooManyVoices ∧
    ({ hosted with hostQueue := [.create { p1 with numVoices := 33 }] } : State).hostQueue =
      .create { p1 with numVoices := 33 } :: [] := by decide +kernel
theorem witness_UpdateResult :
    ({ hosted with hostQueue := [.update p1] } : State).phase = .idle ∧
    ({ hosted with hostQueue := [.update p1] } : State).hostQueue = .update p1 :: [] ∧
    validate p1 = none ∧ p1.commands ≠ hosted.patch.commands ∧
    emptyPatch.commands = hosted.patch.commands ∧ validate emptyPatch = none ∧
    ({ hosted with hostQueue := [.update { p1 with numVoices := 33 }] } : State).hostQueue =
      .update { p1 with numVoices := 33 } :: [] ∧
    validate { p1 with numVoices := 33 } = some .tooManyVoices := by decide +kernel
theorem witness_TriggerReleaseResult :
    ({ hosted with hostQueue := [.trigger 31 64] } : State).phase = .idle ∧
    ({ hosted with hostQueue := [.trigger 31 64] } : State).hostQueue = .trigger 31 64 :: [] ∧
    ({ hosted with hostQueue := [.trigger 32 64] } : State).hostQueue = .trigger 32 64 :: [] ∧
    ({ hosted with hostQueue := [.release (-1)] } : State).hostQueue = .release (-1) :: [] := by
  decide +kernel
theorem witness_RenderStart :
    State.reset.phase = .idle ∧ State.reset.hostQueue = [] ∧ State.reset.poisoned = false ∧
    ({ State.reset with hostQueue := [.render [] [] 0] } : State).hostQueue =
      .render [] [] 0 :: [] ∧
    ({ State.reset with poisoned := true } : State).poisoned = true := by decide +kernel
/-- The state at the loop test, before `inStep`. -/
def atLoop : State := stepped (stepped hosted)
theorem witness_LoopTest :
    atLoop.phase = .loopTest ∧ (atLoop.time < atLoop.maxtime ∧ atLoop.bufPos + 2 ≤ atLoop.buffer.length) ∧
    (atLoop.globalTime.toNat % 256 = 0 ∧ atLoop.syncPos < atLoop.syncBuffer.length) ∧
    ({ atLoop with syncBuffer := [] } : State).syncBuffer.length ≤ atLoop.syncPos ∧
    ({ atLoop with globalTime := 1 } : State).globalTime.toNat % 256 ≠ 0 ∧
    ¬ ({ atLoop with maxtime := 0 } : State).time < 0 ∧
    ¬ atLoop.bufPos + 2 ≤ ({ atLoop with buffer := [f0] } : State).buffer.length := by
  decide +kernel
theorem witness_EndOfStep :
    ({ inStep with vr := 0 } : State).phase = .sampleStep ∧
    ({ inStep with vr := 0 } : State).vr = 0 ∧ ({ inStep with vr := 0 } : State).stk.length = 4 ∧
    ({ inStep with vr := 0, stk := [f0, f0, f0] } : State).stk.length < 4 ∧
    4 < ({ inStep with vr := 0, stk := [f0, f0, f0, f0, f0] } : State).stk.length := by
  decide +kernel

/-- A decidable form of `State.InStep`. -/
theorem inStep_of_dec (s : State)
    (h : s.bufPos + 2 ≤ bufCap s ∧ s.cc ≤ s.patch.commands.length ∧
      s.cci ≤ s.patch.commands.length ∧ s.vc ≤ s.patch.values.length ∧
      s.vci ≤ s.patch.values.length ∧ s.ui ≤ 63 ∧ s.dl ≤ s.lines.length ∧
      (s.vr ≠ 0 → s.vi.val + s.vr = s.patch.numVoices) ∧
      (s.vr ≠ 0 → segmentsFit s.ui (s.patch.commands.drop s.cc) = true) ∧
      segmentsFit 0 (s.patch.commands.drop s.cci) = true ∧
      s.dl + linesAhead s ≤ s.lines.length) : s.InStep := by
  obtain ⟨h1, h2, h3, h4, h5, h6, h7, h8, h9, h10, h11⟩ := h
  exact ⟨h1, h2, h3, h4, h5, h6, h7, h8, h9, h10, h11⟩

/-- `inStep` is well-formed and runs. -/
theorem inStep_wf : inStep.Wf where
  voices := by decide +kernel
  lines := by decide +kernel
  patch := by decide +kernel
  linesEnough := by decide +kernel
  seed := by decide +kernel
  stack := by decide +kernel
  boundary := by decide +kernel
  poison := by decide +kernel
  running := by decide +kernel
  inStep := fun _ => inStep_of_dec _ (by decide +kernel)

theorem witness_StepKeepsWf : inStep.Wf ∧ step inStep = .next (stepped inStep) :=
  ⟨inStep_wf, step_stepped (by decide +kernel)⟩
theorem witness_UnitMemoryPrivate :
    inStep.Wf ∧ inStep.phase ≠ .idle ∧ step inStep = .next (stepped inStep) :=
  ⟨inStep_wf, by decide +kernel, step_stepped (by decide +kernel)⟩
/-- Inside a sample step, before a `send` from unit 1 to port 0 of unit 2 (V-DSP-4's shape). -/
def inSend : State :=
  stepped (stepped (stepped (stepped { State.reset with
    hostQueue := [
      .create { p1 with commands := [0x36, 0x2E, 0x38, 0x28, 0x00], values := [128, 96, 0x38, 0, 128] },
      .render [7, 7] [7] 1] })))

theorem inSend_wf : inSend.Wf where
  voices := by decide +kernel
  lines := by decide +kernel
  patch := by decide +kernel
  linesEnough := by decide +kernel
  seed := by decide +kernel
  stack := by decide +kernel
  boundary := by decide +kernel
  poison := by decide +kernel
  running := by decide +kernel
  inStep := fun _ => inStep_of_dec _ (by decide +kernel)

/-- The port clause of UnitMemoryPrivate: a `send` that changes a port of another unit. -/
theorem witness_UnitMemoryPrivate_send :
    inSend.Wf ∧ inSend.phase ≠ .idle ∧ step inSend = .next (stepped inSend) ∧ 2 ≠ inSend.ui ∧
    readPort (stepped inSend) 0 2 0 ≠ readPort inSend 0 2 0 :=
  ⟨inSend_wf, by decide +kernel, step_stepped (by decide +kernel), by decide +kernel,
    by decide +kernel⟩

/-- Inside a sample step whose first command is a `delay` with count 0 (V-FLT-12). -/
def inDelay : State :=
  stepped (stepped (stepped { State.reset with
    hostQueue := [
      .create { p1 with commands := [0x22, 0x00], values := [0x80, 0, 0, 0, 0, 0, 0] },
      .render [7, 7] [7] 1] }))

theorem inDelay_wf : inDelay.Wf where
  voices := by decide +kernel
  lines := by decide +kernel
  patch := by decide +kernel
  linesEnough := by decide +kernel
  seed := by decide +kernel
  stack := by decide +kernel
  boundary := by decide +kernel
  poison := by decide +kernel
  running := by decide +kernel
  inStep := fun _ => inStep_of_dec _ (by decide +kernel)

theorem witness_InstalledPatchFaults :
    inDelay.Wf ∧ inDelay.phase ≠ .idle ∧ step inDelay = .next (stepped inDelay) ∧
    (stepped inDelay).result = some (.rendered 0 0 0 (.faulted (.renderFault .delayLinesExhausted)
      { cmdIndex := some 0, cmdByte := some 0x22, voice := 0, unit := 0, time := 0 })) :=
  ⟨inDelay_wf, by decide +kernel, step_stepped (by decide +kernel), by decide +kernel⟩
theorem witness_CommandLowersWork :
    inStep.phase = .sampleStep ∧ inStep.vr ≠ 0 ∧ inStep.cc ≤ inStep.patch.commands.length ∧
    inStep.cci ≤ inStep.patch.commands.length ∧ step inStep = .next (stepped inStep) :=
  ⟨by decide +kernel, by decide +kernel, by decide +kernel, by decide +kernel,
    step_stepped (by decide +kernel)⟩
theorem witness_SharedStateWriters :
    inStep.phase ≠ .idle ∧ step inStep = .next (stepped inStep) ∧
    (stepped (State.reset.withFetchWord 24 0x804032)).randSeed ≠ State.reset.randSeed ∧
    ({ inStep with vr := 0 } : State).stk.length = 4 ∧
    (stepped { inDelay with patch := { inDelay.patch with values := [0, 0, 0, 0, 0, 0, 1] }
                            lines := [zeroLine] }).dl ≠ inDelay.dl ∧
    (stepped { atLoop with dl := 1 }).dl ≠ 1 ∧
    (stepped atLoop).syncs ≠ atLoop.syncs ∧ (stepped atLoop).syncPos ≠ atLoop.syncPos := by
  refine ⟨by decide +kernel, step_stepped (by decide +kernel), ?_⟩
  decide +kernel
/-- A step that poisons, a step of a poisoned running state, and an `Update` that clears the flag. -/
theorem witness_FaultEntry :
    (step inDelay = .next (stepped inDelay) ∧ inDelay.poisoned = false ∧
      (stepped inDelay).poisoned = true) ∧
    (step { inStep with poisoned := true } = .next (stepped { inStep with poisoned := true }) ∧
      ({ inStep with poisoned := true } : State).phase ≠ .idle) ∧
    (stepped { State.reset with poisoned := true, hostQueue := [.update p1] }).poisoned = false :=
  ⟨⟨step_stepped (by decide +kernel), by decide +kernel, by decide +kernel⟩,
    ⟨step_stepped (by decide +kernel), by decide +kernel⟩, by decide +kernel⟩
/-- The places of a fault: a command, the end of the command stream, the loop test, the end of a step. -/
theorem witness_FaultEntry_sites :
    (inDelay.phase = .sampleStep ∧ inDelay.vr ≠ 0 ∧ inDelay.cc < inDelay.patch.commands.length) ∧
    ((running [0x36] [96] 1 0).patch.commands.length ≤ (running [0x36] [96] 1 0).cc ∧
      (running [0x36] [96] 1 0).poisoned = false ∧
      (stepped (running [0x36] [96] 1 0)).poisoned = true) ∧
    (atLoop.phase = .loopTest ∧ (stepped { atLoop with syncBuffer := [] }).poisoned = true) ∧
    (stepped { inStep with vr := 0, stk := [] }).poisoned = true := by decide +kernel
theorem witness_ArithmeticNearest :
    isFinite 0x7F7FFFFF = true ∧ isFinite 0x00000001 = true ∧ scaled 0x00000001 ≠ 0 ∧
    isFinite (addAt 0 0x7F7FFFFF 0x73000000) = false ∧
    isFinite (mulAt 0 0x7F7FFFFF 0x7F7FFFFF) = false ∧
    isFinite (divAt 0 0x7F7FFFFF 0x00000001) = false ∧
    isFinite (addAt 0 0x7F7FFFFF 0x00000001) = true ∧
    isFinite (mulAt 0 0x7F7FFFFF 0x00000001) = true ∧
    isFinite (divAt 0 0x00000001 0x7F7FFFFF) = true := by decide +kernel
/-- 1 plus half a unit in its last place lies between 1 and the next value, and goes to 1; 2^24 + 1 goes
to 2^24; the special values of the second part. -/
theorem witness_ArithmeticNearest_ties :
    (addAt 0 f1 0x33800000 = f1 ∧ scaled 0x3F800001 ≠ scaled f1 ∧
      (scaled 0x3F800001 - (scaled f1 + scaled 0x33800000)).natAbs =
        (scaled f1 - (scaled f1 + scaled 0x33800000)).natAbs) ∧
    (ofInt 16777217 = 0x4B800000 ∧ ofInt 16777219 = 0x4B800002) ∧
    isNaN 0x7FC00000 = true ∧ isInf 0x7F800000 = true ∧ isInf 0xFF800000 = true ∧
    isZero 0x80000000 = true ∧ isZero f1 = false ∧ isNaN f1 = false := by decide +kernel
theorem witness_RandDraw : State.reset.randSeed.getLsbD 0 = true := by decide +kernel
theorem witness_Waveshape :
    (isFinite 0x7F7FFFFF = true ∧ magnitude 0x7F7FFFFF % 2 = 0) ∧
    (isFinite 0x00000002 = true ∧ magnitude 0x00000002 % 2 = 0) ∧
    1 ≤ (1 : Byte).toNat ∧ (127 : Byte).toNat ≤ 127 := by decide +kernel

end Sys2Proof.Tests
end

section
/-! What the decoder read, and the walk of R603 on one command. -/
namespace Sys2Proof

/-! ### What the decoder read -/

theorem command_of_opcode {c : Byte} {n : Nat} (h : opcodeOf c = n) :
    c = commandByte n (stereoOf c) :=
  h ▸ (commandByte_fields c).symm

/-- A decoded instruction is well-formed, the command byte is its own, and its operand group is the
leading bytes of the value stream (R301, R403). -/
theorem decode_eq_instr {c : Byte} {vs : List Byte} {i : Instr} (h : decode c vs = .instr i) :
    c = i.command ∧ i.operands <+: vs ∧ i.wellFormed = true := by
  simp only [decode] at h
  split at h
  -- the oscillator, whose group also depends on its flags byte (R306)
  case h_27 hop =>
    split at h
    · split at h
      all_goals cases h
      all_goals
        exact ⟨command_of_opcode hop, by simp [Instr.operands], by simp [Instr.wellFormed, *]⟩
    · cases h
  -- an illegal opcode
  case h_32 => cases h
  all_goals
    rename_i hop
    try split at h
    all_goals cases h
    exact ⟨command_of_opcode hop, by simp [Instr.operands], rfl⟩

end Sys2Proof

namespace Sys2Proof.Machine

/-- The delay lines an instruction takes when it completes: those of a `delay` (R308, R540). -/
def linesTaken : Instr → Nat
  | .delay b _ _ _ _ _ _ count => ch b * delayLineCount count
  | _ => 0

/-- The walk of R603 counts of a command what the instruction decoded from it consumes: the length
of its operand group and its delay lines. -/
theorem walkCommand_command {i : Instr} {values : List Byte} {vc : Nat}
    (hpre : i.operands <+: values.drop vc) (hwf : i.wellFormed = true) :
    walkCommand values i.command vc = some (i.operands.length, linesTaken i) := by
  have hbyte : ∀ b, i.operands[6]? = some b → values[vc + 6]? = some b := fun b hb => by
    obtain ⟨rest, hrest⟩ := hpre
    obtain ⟨hlt, -⟩ := List.getElem?_eq_some_iff.1 hb
    rw [← List.getElem?_drop, ← hrest, List.getElem?_append_left hlt, hb]
  cases i with
  | oscillator b t0 t1 t2 t3 t4 t5 flags gate =>
    have hflags := hbyte flags (by cases gate <;> rfl)
    have hgate : gate.isSome = gateFlag flags := by simpa [Instr.wellFormed] using hwf
    cases gate <;> simp at hgate <;>
      simp [walkCommand, Instr.command, Instr.operands, linesTaken, transformCount, extraCount,
        hflags, ← hgate]
  | delay b t0 t1 t2 t3 t4 index count =>
    have hcount := hbyte count rfl
    simp [walkCommand, Instr.command, Instr.operands, linesTaken, transformCount, extraCount,
      hcount]
  | _ =>
    simp [walkCommand, Instr.command, Instr.operands, linesTaken, transformCount, extraCount]

end Sys2Proof.Machine
end

section
/-! The walk of R603 and the segments of R602 along a run. -/
namespace Sys2Proof.Machine

/-! ### The walk of R603 along a run -/

/-- The count the walk starts with is added to what it counts. -/
theorem walkVoice_total (values : List Byte) (cs : List Byte) : ∀ vc total,
    walkVoice values cs vc total =
      (total + (walkVoice values cs vc 0).1, (walkVoice values cs vc 0).2) := by
  induction cs with
  | nil => exact fun _ _ => rfl
  | cons c cs ih =>
    intro vc total
    simp only [walkVoice]
    split
    · rfl
    · split
      · rfl
      · rename_i k n _
        split
        · simp
        · rw [ih (vc + k) (total + n), ih (vc + k) (0 + n)]
          simp [Nat.add_assoc]

theorem walkVoices_total (p : BytePatch) (vr : Nat) : ∀ cs vc csI vcI total,
    walkVoices p vr cs vc csI vcI total = total + walkVoices p vr cs vc csI vcI 0 := by
  induction vr with
  | zero => exact fun _ _ _ _ _ => rfl
  | succ vr ih =>
    intro cs vc csI vcI total
    simp only [walkVoices]
    rw [walkVoice_total p.values cs vc total]
    cases hw : walkVoice p.values cs vc 0 with
    | mk n rest =>
      cases rest with
      | none => rfl
      | some rest =>
        obtain ⟨cs', vc'⟩ := rest
        simp only
        split
        · rw [ih _ _ _ _ (total + n), ih _ _ _ _ n, Nat.add_assoc]
        · rw [ih _ _ _ _ (total + n), ih _ _ _ _ n, Nat.add_assoc]

/-- The walk from a command that is no `advance`: the command's lines, and the walk from behind its
operand group. -/
theorem walkVoices_command {p : BytePatch} {vr : Nat} {c : Byte} {cs : List Byte} {vc k n : Nat}
    (csI : List Byte) (vcI : Nat) (hvr : vr ≠ 0) (hop : opcodeOf c ≠ 0)
    (hcmd : walkCommand p.values c vc = some (k, n)) (hfit : vc + k ≤ p.values.length) :
    walkVoices p vr (c :: cs) vc csI vcI 0 = n + walkVoices p vr cs (vc + k) csI vcI 0 := by
  obtain ⟨m, rfl⟩ := Nat.exists_eq_succ_of_ne_zero hvr
  rw [← walkVoices_total]
  simp only [walkVoices, walkVoice, hop, if_false, hcmd, Nat.not_lt.2 hfit, Nat.zero_add]

/-- The walk from an `advance`: the next voice starts at the saved instrument start or behind it, as
the share flag says (R404). -/
theorem walkVoices_advance {p : BytePatch} {vr : Nat} {c : Byte} {cs : List Byte} {vc : Nat}
    (csI : List Byte) (vcI : Nat) (hop : opcodeOf c = 0) :
    walkVoices p (vr + 1) (c :: cs) vc csI vcI 0 =
      if shareBit p.polyphonyBitmask vr then walkVoices p vr csI vcI csI vcI 0
      else walkVoices p vr cs vc cs vc 0 := by
  simp only [walkVoices, walkVoice, hop, if_true]
  rfl

/-- Between two `advance` commands the unit number stays below 63 (R602). -/
theorem segmentsFit_command {k : Nat} {c : Byte} {cs : List Byte} (hop : opcodeOf c ≠ 0)
    (h : segmentsFit k (c :: cs) = true) : k < 63 ∧ segmentsFit (k + 1) cs = true := by
  simpa [segmentsFit, hop] using h

/-- Behind an `advance` a new segment starts (R602). -/
theorem segmentsFit_advance {k : Nat} {c : Byte} {cs : List Byte} (hop : opcodeOf c = 0)
    (h : segmentsFit k (c :: cs) = true) : segmentsFit 0 cs = true := by
  simpa [segmentsFit, hop] using h

/-- What a patch that passed validation has (R602), of what the sample loop rests on. -/
theorem validate_eq_none {p : BytePatch} (h : validate p = none) :
    p.numVoices ≤ 32 ∧ segmentsFit 0 p.commands = true := by
  rw [validate] at h
  split_ifs at h with _ _ hvoices _ hsegments
  exact ⟨Nat.not_lt.1 hvoices, by simpa using hsegments⟩

end Sys2Proof.Machine
end

section
/-! What every handler keeps of the invariant, and that the shared operations keep it. -/
namespace Sys2Proof.Machine

/-! ### What every handler keeps -/

/-- The fields of the state no handler writes; the others are blanked out. -/
def handlerFrame (s : State) : State :=
  { s with
    randSeed := 0
    outputs := Vector.replicate 8 0
    voices := Vector.replicate 32 zeroVoice
    lines := []
    stk := []
    dl := 0
    params := Vector.replicate 6 0
    time := 0
    syncPos := 0
    syncBuffer := []
    draws := 0 }

/-- Every delay line's ring is in canonical form. -/
def LinesWf (ls : List DelayLine) : Prop := ∀ l ∈ ls, Memory.wf 65536 l.buffer = true

/-- What a handler that takes `n` delay lines keeps of the invariant between the state `s` it starts
from and the state `t` it leaves. -/
structure Kept (n : Nat) (s t : State) : Prop where
  frame : handlerFrame t = handlerFrame s := by rfl
  dl : t.dl = s.dl + n := by rfl
  lineCount : t.lines.length = s.lines.length := by rfl
  sync : s.syncPos ≤ syncCap s → t.syncPos ≤ syncCap t := by exact id
  stack : s.stk.length ≤ stackCap s → t.stk.length ≤ stackCap t := by exact id
  seed : s.randSeed.getLsbD 0 = true → t.randSeed.getLsbD 0 = true := by exact id
  voices : s.ui < 63 → VoicesWf s.voices → VoicesWf t.voices := by exact fun _ h => h
  lines : LinesWf s.lines → LinesWf t.lines := by exact id

namespace Kept
variable {n : Nat} {s t : State}

theorem patch (h : Kept n s t) : t.patch = s.patch :=
  show (handlerFrame t).patch = _ from h.frame ▸ rfl
theorem cc (h : Kept n s t) : t.cc = s.cc :=
  show (handlerFrame t).cc = _ from h.frame ▸ rfl
theorem vc (h : Kept n s t) : t.vc = s.vc :=
  show (handlerFrame t).vc = _ from h.frame ▸ rfl
theorem cci (h : Kept n s t) : t.cci = s.cci :=
  show (handlerFrame t).cci = _ from h.frame ▸ rfl
theorem vci (h : Kept n s t) : t.vci = s.vci :=
  show (handlerFrame t).vci = _ from h.frame ▸ rfl
theorem vi (h : Kept n s t) : t.vi = s.vi :=
  show (handlerFrame t).vi = _ from h.frame ▸ rfl
theorem vr (h : Kept n s t) : t.vr = s.vr :=
  show (handlerFrame t).vr = _ from h.frame ▸ rfl
theorem ui (h : Kept n s t) : t.ui = s.ui :=
  show (handlerFrame t).ui = _ from h.frame ▸ rfl
theorem phase (h : Kept n s t) : t.phase = s.phase :=
  show (handlerFrame t).phase = _ from h.frame ▸ rfl
theorem poisoned (h : Kept n s t) : t.poisoned = s.poisoned :=
  show (handlerFrame t).poisoned = _ from h.frame ▸ rfl
theorem result (h : Kept n s t) : t.result = s.result :=
  show (handlerFrame t).result = _ from h.frame ▸ rfl
theorem samples (h : Kept n s t) : t.samples = s.samples :=
  show (handlerFrame t).samples = _ from h.frame ▸ rfl
theorem bufPos (h : Kept n s t) : t.bufPos = s.bufPos :=
  show (handlerFrame t).bufPos = _ from h.frame ▸ rfl
theorem buffer (h : Kept n s t) : t.buffer = s.buffer :=
  show (handlerFrame t).buffer = _ from h.frame ▸ rfl

end Kept

theorem Kept.refl (s : State) : Kept 0 s s := {}

theorem Kept.trans {n k : Nat} {s t u : State} (h : Kept n s t) (h' : Kept k t u) :
    Kept (n + k) s u where
  frame := h'.frame.trans h.frame
  dl := by rw [h'.dl, h.dl, Nat.add_assoc]
  lineCount := h'.lineCount.trans h.lineCount
  sync := h'.sync ∘ h.sync
  stack := h'.stack ∘ h.stack
  seed := h'.seed ∘ h.seed
  voices := fun hu => h'.voices (h.ui ▸ hu) ∘ h.voices hu
  lines := h'.lines ∘ h.lines

/-- The handler keeps what `Kept` says whichever way it ends, and takes `n` delay lines when it
completes. -/
def Takes {α : Type} (n : Nat) (m : M α) : Prop :=
  ∀ s, match m s with
    | .ok _ t => Kept n s t
    | .error _ t => ∃ k, Kept k s t

section
variable {α β : Type}

theorem Takes.ok {n : Nat} {m : M α} (h : Takes n m) {s t : State} {a : α} (hm : m s = .ok a t) :
    Kept n s t := by
  have := h s
  rwa [hm] at this

theorem Takes.error {n : Nat} {m : M α} (h : Takes n m) {s t : State} {e : RenderError}
    (hm : m s = .error e t) : ∃ k, Kept k s t := by
  have := h s
  rwa [hm] at this

theorem Takes.bind {n k : Nat} {m : M α} {f : α → M β} (hm : Takes n m) (hf : ∀ a, Takes k (f a)) :
    Takes (n + k) (m >>= f) := by
  intro s
  cases h : m s with
  | ok a t =>
    rw [bind_ok h]
    cases h' : f a t with
    | ok b u => exact (hm.ok h).trans ((hf a).ok h')
    | error e u =>
      obtain ⟨j, hj⟩ := (hf a).error h'
      exact ⟨n + j, (hm.ok h).trans hj⟩
  | error e t =>
    rw [bind_error h]
    exact hm.error h

/-- Sequencing after a part that takes no line. -/
theorem Takes.seq {n : Nat} {m : M α} {f : α → M β} (hm : Takes 0 m) (hf : ∀ a, Takes n (f a)) :
    Takes n (m >>= f) :=
  Nat.zero_add n ▸ hm.bind hf

theorem Takes.ite {n : Nat} {c : Prop} [Decidable c] {m m' : M α} (h : Takes n m)
    (h' : Takes n m') : Takes n (if c then m else m') := by
  split
  · exact h
  · exact h'

/-! ### The shared operations keep it -/

/-- A part that only reads. -/
theorem takes_read (f : State → α) : Takes 0 (fun s => .ok (f s) s : M α) := fun s => Kept.refl s

theorem takes_pure (a : α) : Takes 0 (pure a : M α) := takes_read fun _ => a
theorem takes_readAll : Takes 0 readAll := takes_read id
theorem takes_top (k : Nat) : Takes 0 (top k) := takes_read _
theorem takes_param (k : Nat) : Takes 0 (param k) := takes_read _
theorem takes_ownState (k : Nat) : Takes 0 (ownState k) := takes_read _
theorem takes_ownPort (k : Nat) : Takes 0 (ownPort k) := takes_read _

theorem takes_change {n : Nat} {f : State → State} (h : ∀ s, Kept n s (f s)) :
    Takes n (change f) := h

theorem takes_num (m : Num α) : Takes 0 (num m) := fun _ => {}

/-- A part that goes on with the state as it is, or raises a fault. -/
theorem takes_check {c : State → Prop} [DecidablePred c] (f : State → α) (e : RenderError) :
    Takes 0 (fun s => if c s then .ok (f s) s else .error e s : M α) := by
  intro s
  by_cases h : c s
  · simpa only [h, if_true] using Kept.refl s
  · simpa only [h, if_false] using ⟨0, Kept.refl s⟩

theorem takes_need (n : Nat) : Takes 0 (need n) := takes_check _ _
theorem takes_truncI (x : F32) : Takes 0 (truncI x) := takes_check _ _
theorem takes_roundI (x : F32) : Takes 0 (roundI x) := takes_check _ _

theorem takes_raiseIf (bad : Bool) (e : RenderError) : Takes 0 (raiseIf bad e) := by
  intro s
  cases bad
  · exact Kept.refl s
  · exact ⟨0, Kept.refl s⟩

theorem takes_delayTime (i : Nat) : Takes 0 (delayTime i) := by
  intro s
  rw [delayTime]
  cases s.patch.delayTimes[i]? with
  | some d => exact Kept.refl s
  | none => exact ⟨0, Kept.refl s⟩

theorem takes_push (v : F32) : Takes 0 (push v) := by
  intro s
  rw [push_run]
  by_cases h : s.stk.length < stackCap s
  · rw [if_pos h]
    exact { stack := fun _ => h }
  · rw [if_neg h]
    exact ⟨0, Kept.refl s⟩

theorem takes_drop (n : Nat) : Takes 0 (drop n) := fun s =>
  { stack := fun h => (List.length_drop ▸ Nat.sub_le _ _).trans h }

theorem takes_setTop (k : Nat) (v : F32) : Takes 0 (setTop k v) := fun s =>
  { stack := fun h => (List.length_set (as := s.stk)).trans_le h }

theorem takes_setOwnState {k : Nat} (hk : k < 8) (x : F32) : Takes 0 (setOwnState k x) := fun s =>
  { voices := fun hu h => h.write s.vi x (stateKey_lt hu (by omega)) }

theorem takes_setOwnPort {k : Nat} (hk : k < 8) (x : F32) : Takes 0 (setOwnPort k x) := fun s =>
  { voices := fun hu h => h.write s.vi x (portKey_lt hu hk) }

theorem takes_portAdd (v : Fin 32) {u k : Nat} (hu : u < 63) (hk : k < 8) (x amt : F32) :
    Takes 0 (portAdd v u k x amt) := fun _ =>
  { voices := fun _ h => h.write v _ (portKey_lt hu hk) }

theorem takes_busAdd (c : Nat) (g x : F32) : Takes 0 (busAdd c g x) := fun _ => {}

theorem takes_writeOutput (c : Nat) (x : F32) : Takes 0 (change fun s => writeOutput s c x) :=
  takes_change fun _ => {}

/-- The factor 16007 is odd, so an odd seed stays odd (R21). -/
theorem getLsbD_zero_draw {seed : Word} (h : seed.getLsbD 0 = true) :
    (seed * 16007).getLsbD 0 = true := by
  rw [← BitVec.testBit_toNat, Nat.testBit_zero, decide_eq_true_iff] at h ⊢
  rw [BitVec.toNat_mul, show BitVec.toNat (16007 : Word) = 16007 from rfl]
  omega

theorem takes_rand : Takes 0 rand :=
  (takes_change fun _ => { seed := getLsbD_zero_draw }).seq fun _ =>
    takes_readAll.seq fun _ => takes_num _

theorem takes_syncWrite (v : F32) : Takes 0 (syncWrite v) := by
  intro s
  rw [syncWrite_run]
  by_cases h : s.syncPos < syncCap s
  · rw [if_pos h]
    exact { sync := fun _ => (Nat.succ_le_of_lt h).trans_eq List.length_set.symm }
  · rw [if_neg h]
    exact ⟨0, Kept.refl s⟩

theorem takes_takeLine : Takes 1 takeLine := by
  intro s
  rw [takeLine]
  by_cases h : s.dl < s.lines.length
  · rw [if_pos h]
    exact {}
  · rw [if_neg h]
    exact ⟨0, Kept.refl s⟩

theorem readLine_wf {s : State} (h : LinesWf s.lines) (d : Nat) :
    Memory.wf 65536 (readLine s d).buffer = true := by
  rw [readLine]
  cases hd : s.lines[d]? with
  | none => rfl
  | some l => exact h l (List.mem_of_getElem? hd)

theorem LinesWf.set {ls : List DelayLine} (h : LinesWf ls) (d : Nat) {l : DelayLine}
    (hl : Memory.wf 65536 l.buffer = true) : LinesWf (ls.set d l) := fun x hx =>
  (List.mem_or_eq_of_mem_set hx).elim (h x) fun hxl => hxl ▸ hl

/-- A line write that leaves a canonical ring canonical. -/
theorem takes_writeLine (d : Nat) {f : State → DelayLine}
    (hf : ∀ s, LinesWf s.lines → Memory.wf 65536 (f s).buffer = true) :
    Takes 0 (change fun s => writeLine s d (f s)) :=
  takes_change fun s =>
    { lineCount := List.length_set
      lines := fun h => h.set d (hf s h) }

theorem takes_forChannels {n : Nat} {body : Nat → M Unit} (stereo : Bool)
    (h : ∀ i < 2, Takes n (body i)) : Takes (ch stereo * n) (forChannels stereo body) := by
  cases stereo
  · rw [forChannels_false, ch_false, Nat.one_mul]
    exact h 0 (by decide)
  · rw [forChannels_true, ch_true, Nat.two_mul]
    exact (h 0 (by decide)).bind fun _ => h 1 (by decide)

/-- A loop over the channels that takes no line. -/
theorem takes_eachChannel {body : Nat → M Unit} (stereo : Bool) (h : ∀ i < 2, Takes 0 (body i)) :
    Takes 0 (forChannels stereo body) :=
  takes_forChannels stereo h

theorem takes_pushTwice (stereo : Bool) (v : F32) : Takes 0 (pushTwice stereo v) :=
  (takes_push v).seq fun _ => (takes_push v).ite (takes_pure ())

theorem takes_mapChannels (stereo : Bool) (f : F32 → Num F32) : Takes 0 (mapChannels stereo f) :=
  (takes_need _).seq fun _ => takes_eachChannel stereo fun i _ =>
    (takes_top i).seq fun _ => (takes_num _).seq fun _ => takes_setTop i _

end

end Sys2Proof.Machine
end

section
/-! Every instruction but `advance` keeps it, and takes the delay lines the walk of R603 counts for it. -/
namespace Sys2Proof.Machine

/-! ### The parts of the handlers -/

theorem takes_combineInto (op : F32 → F32 → Num F32) (i j : Nat) : Takes 0 (combineInto op i j) :=
  (takes_top i).seq fun _ => (takes_top j).seq fun _ => (takes_num _).seq fun _ => takes_setTop i _

theorem takes_combineTop (op : F32 → F32 → Num F32) (stereo : Bool) :
    Takes 0 (combineTop op stereo) :=
  .ite
    ((takes_need 4).seq fun _ => (takes_combineInto op 0 2).seq fun _ => takes_combineInto op 1 3)
    ((takes_need 2).seq fun _ => takes_combineInto op 0 1)

theorem takes_combineNext (op : F32 → F32 → Num F32) (stereo : Bool) :
    Takes 0 (combineNext op stereo) :=
  .ite
    ((takes_need 4).seq fun _ => (takes_combineInto op 2 0).seq fun _ =>
      (takes_combineInto op 3 1).seq fun _ => takes_drop 2)
    ((takes_need 2).seq fun _ => (takes_combineInto op 1 0).seq fun _ => takes_drop 1)

theorem takes_swap (i j : Nat) : Takes 0 (swap i j) :=
  (takes_top i).seq fun _ => (takes_top j).seq fun _ => (takes_setTop i _).seq fun _ =>
    takes_setTop j _

theorem takes_noiseChannel : Takes 0 noiseChannel :=
  takes_rand.seq fun _ => (takes_param 0).seq fun _ => (takes_param 1).seq fun _ =>
    (takes_num _).seq fun _ => takes_push _

theorem takes_holdChannel (freq2 : F32) {i : Nat} (hi : i < 2) : Takes 0 (holdChannel freq2 i) :=
  (takes_ownState i).seq fun _ => (takes_ownState (2 + i)).seq fun _ => (takes_top i).seq fun _ =>
    (takes_num _).seq fun _ => (takes_num _).seq fun _ =>
      (takes_setOwnState (by omega) _).seq fun _ => (takes_setOwnState (by omega) _).seq fun _ =>
        (takes_ownState (2 + i)).seq fun _ => takes_setTop i _

theorem takes_filterChannel (flags : Byte) (freq2 res : F32) {i : Nat} (hi : i < 2) :
    Takes 0 (filterChannel flags freq2 res i) :=
  (takes_top i).seq fun _ => (takes_ownState (2 * i)).seq fun _ =>
    (takes_ownState (2 * i + 1)).seq fun _ => (takes_num _).seq fun _ =>
      (takes_setOwnState (by omega) _).seq fun _ => (takes_setOwnState (by omega) _).seq fun _ =>
        (takes_num _).seq fun _ => takes_setTop i _

/-- One sink's adds to the bus, a channel of the stack to a channel of the bus. -/
theorem takes_busAdds (stereo : Bool) (base : Nat → Nat) (g : F32) :
    Takes 0 (forChannels stereo fun i => do
      let x ← top i
      busAdd (base i) g x) :=
  takes_eachChannel stereo fun i _ => (takes_top i).seq fun _ => takes_busAdd _ g _

/-- The two gains of `pan`, after the mono form's duplicate (R485). -/
theorem takes_panGains (p : F32) : Takes 0 (do
    need 2
    let l ← top 0
    let l' ← num (fmul l p)
    setTop 0 l'
    let r ← top 1
    let r' ← num do fmul r (← fsub f1 p)
    setTop 1 r') :=
  (takes_need 2).seq fun _ => (takes_top 0).seq fun _ => (takes_num _).seq fun _ =>
    (takes_setTop 0 _).seq fun _ => (takes_top 1).seq fun _ => (takes_num _).seq fun _ =>
      takes_setTop 1 _

/-- The unit of a send target is one of the 63, and its ports are among the 8 (R520). -/
theorem resolveSend_ok {a : Half} {stereo : Bool} {vi v : Fin 32} {u k : Nat}
    (h : resolveSend a stereo vi = .ok (v, u, k)) : u < 63 ∧ ∀ i < ch stereo, k + i < 8 := by
  simp only [resolveSend] at h
  have hch : ch stereo = 1 + stereo.toNat := by cases stereo <;> rfl
  split_ifs at h with _ _ hport
  all_goals
    cases h
    exact ⟨by omega, fun i hi => by omega⟩

/-- What follows a send target may use where the target lies. -/
theorem Takes.sendTarget_bind {address : Half} {stereo : Bool} {k : Fin 32 × Nat × Nat → M Unit}
    (h : ∀ target, target.2.1 < 63 → (∀ i < ch stereo, target.2.2 + i < 8) → Takes 0 (k target)) :
    Takes 0 (sendTarget address stereo >>= k) := by
  intro s
  cases hr : resolveSend address stereo s.vi with
  | error e =>
    rw [bind_error (show sendTarget address stereo s = .error e s by rw [sendTarget, hr])]
    exact ⟨0, Kept.refl s⟩
  | ok target =>
    rw [bind_ok (show sendTarget address stereo s = .ok target s by rw [sendTarget, hr])]
    obtain ⟨hu, hk⟩ := resolveSend_ok hr
    exact h target hu hk s

/-- The sends of the channels into ports that lie in the target unit. -/
theorem takes_portAdds (stereo : Bool) {target : Fin 32 × Nat × Nat} (amt : F32)
    (hu : target.2.1 < 63) (hk : ∀ i < ch stereo, target.2.2 + i < 8) :
    Takes 0 (forChannels stereo fun i => do
      let x ← top i
      portAdd target.1 target.2.1 (target.2.2 + i) x amt) := by
  cases stereo
  · rw [forChannels_false]
    exact (takes_top 0).seq fun _ => takes_portAdd _ hu (hk 0 (by decide)) _ amt
  · rw [forChannels_true]
    exact ((takes_top 0).seq fun _ => takes_portAdd _ hu (hk 0 (by decide)) _ amt).seq fun _ =>
      (takes_top 1).seq fun _ => takes_portAdd _ hu (hk 1 (by decide)) _ amt

theorem takes_gateAmp (gateBits : Half) (phase : F32) {i : Nat} (hi : i < 2) :
    Takes 0 (gateAmp gateBits phase i) :=
  (takes_num _).seq fun _ => (takes_truncI _).seq fun _ => (takes_ownState (4 + i)).seq fun _ =>
    (takes_num _).seq fun _ => (takes_setOwnState (by omega) _).seq fun _ => takes_pure _

/-- At most four partials run, so the accumulators stay in the unit's state slots (R560). -/
theorem takes_oscPartials (flags : Byte) (gateBits : Half) {i : Nat} (hi : i < 2) (n : Nat) :
    ∀ (j : Nat) (detune phaseParam output : F32), j + n ≤ 4 →
      Takes 0 (oscPartials flags gateBits i n j detune phaseParam output) := by
  induction n with
  | zero => exact fun _ _ _ _ _ => takes_pure _
  | succ n ih =>
    intro j detune phaseParam output hj
    exact takes_readAll.seq fun _ => (takes_num _).seq fun _ =>
      (takes_ownState _).seq fun _ => (takes_num _).seq fun _ =>
        (takes_setOwnState (by omega) _).seq fun _ => (takes_num _).seq fun _ =>
          (Takes.ite (takes_gateAmp gateBits _ hi) (takes_num _)).seq fun _ =>
            (takes_num _).seq fun _ => (takes_num _).seq fun _ => (takes_num _).seq fun _ =>
              ih (j + 1) _ _ _ (by omega)

theorem takes_oscChannel (flags : Byte) (gateBits : Half) (detune : F32) {i : Nat} (hi : i < 2) :
    Takes 0 (oscChannel flags gateBits detune i) := by
  have hpartials : 0 + (unisonOf flags + 1) ≤ 4 := by
    rw [unisonOf]
    omega
  exact (takes_param 2).seq fun _ =>
    (takes_oscPartials flags gateBits hi _ 0 detune _ f0 hpartials).seq fun _ => takes_push _

/-- A delay line is one line of the walk of R603. -/
theorem takes_delayLine (pitched : Bool) (pg2 fb damp x out : F32) (index : Nat) :
    Takes 1 (delayLine pitched pg2 fb damp x out index) :=
  takes_takeLine.bind fun line => (takes_delayTime index).seq fun _ =>
    (takes_ownPort 4).seq fun _ => takes_readAll.seq fun _ => (takes_num _).seq fun _ =>
      (takes_roundI _).seq fun _ => (takes_num _).seq fun _ => (takes_num _).seq fun _ =>
        (takes_writeLine line fun t ht =>
          Memory.wf_write _ (Nat.mod_lt _ (by decide)) (readLine_wf ht line)).seq fun _ =>
            takes_pure _

theorem takes_delayLines (pitched : Bool) (pg2 fb damp x : F32) (n : Nat) :
    ∀ (out : F32) (index : Nat), Takes n (delayLines pitched pg2 fb damp x n out index) := by
  induction n with
  | zero => exact fun _ _ => takes_pure _
  | succ n ih =>
    intro out index
    have h := (takes_delayLine pitched pg2 fb damp x out index).bind fun out' => ih out' (index + 1)
    rw [Nat.add_comm 1 n] at h
    exact h

theorem takes_dcBlock (line : Nat) (out : F32) : Takes 0 (dcBlock line out) :=
  takes_readAll.seq fun _ => (takes_num _).seq fun _ =>
    (takes_writeLine line
      (f := fun t => { readLine t line with dcFiltState := _, dcIn := out })
      fun _ ht => readLine_wf ht line).seq fun _ => takes_pure _

theorem takes_delayChannel (pitched : Bool) (pg2 dry fb damp : F32) (n index i : Nat) :
    Takes n (delayChannel pitched pg2 dry fb damp n index i) :=
  (takes_top i).seq fun _ => (takes_num _).seq fun _ =>
    (takes_delayLines pitched pg2 fb damp _ n _ _).bind fun _ => takes_readAll.seq fun _ =>
      (takes_dcBlock _ _).seq fun _ => takes_setTop i _

/-! ### Every instruction but `advance` is a unit -/

/-- The instruction runs as a unit: at most 8 transformables, the rest of its operand group as extra
bytes, and a handler that keeps the invariant's parts and takes the lines `linesTaken` says. -/
def IsUnit (i : Instr) : Prop :=
  ∃ (ts : List Byte) (extras : Nat) (handler : M Unit),
    (∀ s, exec i s = runUnit ts extras handler s) ∧
    ts.length + extras = i.operands.length ∧ ts.length ≤ 8 ∧ Takes (linesTaken i) handler

theorem IsUnit.intro {i : Instr} {handler : M Unit} (ts : List Byte) (extras : Nat)
    (run : ∀ s, exec i s = runUnit ts extras handler s) (takes : Takes (linesTaken i) handler)
    (length : ts.length + extras = i.operands.length := by rfl) (few : ts.length ≤ 8 := by simp) :
    IsUnit i :=
  ⟨ts, extras, handler, run, length, few, takes⟩

theorem isUnit_send (b : Bool) (amount : Byte) (address : Half) : IsUnit (.send b amount address) :=
  .intro [amount] 2 (fun _ => rfl) <|
    (takes_need _).seq fun _ => Takes.sendTarget_bind fun _ hu hk =>
      (takes_param 0).seq fun _ => (takes_num _).seq fun amt =>
        (takes_portAdds b amt hu hk).seq fun _ => .ite (takes_drop _) (takes_pure _)

theorem isUnit_delay (b : Bool) (pregain dry feedback depth damp index count : Byte) :
    IsUnit (.delay b pregain dry feedback depth damp index count) :=
  .intro [pregain, dry, feedback, depth, damp] 2 (fun _ => rfl) <|
    (takes_need _).seq fun _ => (takes_raiseIf _ _).seq fun _ => (takes_param 0).seq fun _ =>
      (takes_num _).seq fun _ => (takes_param 1).seq fun _ => (takes_param 2).seq fun _ =>
        (takes_param 4).seq fun _ =>
          (takes_forChannels b fun i _ => takes_delayChannel _ _ _ _ _ _ _ i).bind fun _ =>
            takes_setOwnPort (by decide) f0

theorem isUnit_oscillator (b : Bool) (transpose detune phase color shape gain flags : Byte)
    (gate : Option Half) :
    IsUnit (.oscillator b transpose detune phase color shape gain flags gate) :=
  .intro [transpose, detune, phase, color, shape, gain] (if gate.isSome then 3 else 1)
    (fun _ => rfl) (length := by cases gate <;> rfl) <|
    (takes_param 1).seq fun _ => (takes_num _).seq fun _ =>
      takes_eachChannel b fun _ hi => takes_oscChannel flags _ _ hi

theorem isUnit_of_ne_advance {i : Instr} (h : opcodeOf i.command ≠ 0) : IsUnit i := by
  cases i with
  | advance b => exact absurd (opcodeOf_commandByte (by decide) b) h
  | add b => exact .intro [] 0 (fun _ => rfl) <| takes_combineTop fadd b
  | addp b => exact .intro [] 0 (fun _ => rfl) <| takes_combineNext fadd b
  | mul b => exact .intro [] 0 (fun _ => rfl) <| takes_combineTop fmul b
  | mulp b => exact .intro [] 0 (fun _ => rfl) <| takes_combineNext fmul b
  | pop b => exact .intro [] 0 (fun _ => rfl) <| (takes_need _).seq fun _ => takes_drop _
  | push b =>
    exact .intro [] 0 (fun _ => rfl) <| .ite
      ((takes_need 2).seq fun _ => (takes_top 1).seq fun _ => (takes_top 0).seq fun _ =>
        (takes_push _).seq fun _ => takes_push _)
      ((takes_need 1).seq fun _ => (takes_top 0).seq fun _ => takes_push _)
  | xch b =>
    exact .intro [] 0 (fun _ => rfl) <| .ite
      ((takes_need 4).seq fun _ => (takes_swap 0 2).seq fun _ => takes_swap 1 3)
      ((takes_need 2).seq fun _ => takes_swap 0 1)
  | loadnote b =>
    exact .intro [] 0 (fun _ => rfl) <|
      takes_readAll.seq fun _ => (takes_num _).seq fun _ => takes_pushTwice b _
  | loadval b t0 =>
    exact .intro [t0] 0 (fun _ => rfl) <|
      (takes_param 0).seq fun _ => (takes_num _).seq fun _ => takes_pushTwice b _
  | noise b t0 t1 =>
    exact .intro [t0, t1] 0 (fun _ => rfl) <|
      takes_eachChannel b fun _ _ => takes_noiseChannel
  | receive b =>
    exact .intro [] 0 (fun _ => rfl) <| .ite
      ((takes_ownPort 1).seq fun _ => (takes_ownPort 0).seq fun _ =>
        (takes_setOwnPort (by decide) _).seq fun _ => (takes_setOwnPort (by decide) _).seq fun _ =>
          (takes_push _).seq fun _ => takes_push _)
      ((takes_ownPort 0).seq fun _ => (takes_setOwnPort (by decide) _).seq fun _ => takes_push _)
  | input b x0 =>
    exact .intro [] 1 (fun _ => rfl) <|
      (takes_raiseIf _ _).seq fun _ => takes_readAll.seq fun _ => .ite
        ((takes_writeOutput _ _).seq fun _ => (takes_writeOutput _ _).seq fun _ =>
          (takes_push _).seq fun _ => takes_push _)
        ((takes_writeOutput _ _).seq fun _ => takes_push _)
  | out b t0 =>
    exact .intro [t0] 0 (fun _ => rfl) <|
      (takes_param 0).seq fun _ => (takes_need _).seq fun _ =>
        (takes_busAdds b id _).seq fun _ => takes_drop _
  | outaux b t0 t1 =>
    exact .intro [t0, t1] 0 (fun _ => rfl) <|
      (takes_param 0).seq fun _ => (takes_param 1).seq fun _ => (takes_need _).seq fun _ =>
        (takes_busAdds b id _).seq fun _ => (takes_busAdds b (2 + ·) _).seq fun _ => takes_drop _
  | aux b t0 x0 =>
    exact .intro [t0] 1 (fun _ => rfl) <|
      (takes_need _).seq fun _ => (takes_raiseIf _ _).seq fun _ => (takes_param 0).seq fun _ =>
        (takes_busAdds b (x0.toNat + ·) _).seq fun _ => takes_drop _
  | gain b t0 | invgain b t0 | distort b t0 =>
    exact .intro [t0] 0 (fun _ => rfl) <|
      (takes_param 0).seq fun _ => takes_mapChannels b _
  | crush b t0 =>
    exact .intro [t0] 0 (fun _ => rfl) <|
      (takes_param 0).seq fun _ => takes_readAll.seq fun _ => takes_mapChannels b _
  | clip b => exact .intro [] 0 (fun _ => rfl) <| takes_mapChannels b _
  | pan b t0 =>
    exact .intro [t0] 0 (fun _ => rfl) <| (takes_param 0).seq fun p => .ite (takes_panGains p)
      ((takes_need 1).seq fun _ => (takes_top 0).seq fun _ => (takes_push _).seq fun _ =>
        takes_panGains p)
  | hold b t0 =>
    exact .intro [t0] 0 (fun _ => rfl) <|
      (takes_need _).seq fun _ => (takes_param 0).seq fun _ => (takes_num _).seq fun _ =>
        takes_eachChannel b fun _ hi => takes_holdChannel _ hi
  | filter b t0 t1 x0 =>
    exact .intro [t0, t1] 1 (fun _ => rfl) <|
      (takes_need _).seq fun _ => (takes_param 0).seq fun _ => (takes_num _).seq fun _ =>
        (takes_param 1).seq fun _ => takes_eachChannel b fun _ hi => takes_filterChannel x0 _ _ hi
  | envelope b t0 t1 t2 t3 t4 =>
    exact .intro [t0, t1, t2, t3, t4] 0 (fun _ => rfl) <|
      takes_readAll.seq fun _ => (takes_ownState 0).seq fun _ => (takes_ownState 1).seq fun _ =>
        (takes_num _).seq fun _ => (takes_setOwnState (by decide) _).seq fun _ =>
          (takes_setOwnState (by decide) _).seq fun _ =>
            takes_eachChannel b fun _ _ => (takes_num _).seq fun _ => takes_push _
  | compressor b t0 t1 t2 t3 t4 =>
    exact .intro [t0, t1, t2, t3, t4] 0 (fun _ => rfl) <|
      (takes_need _).seq fun _ => takes_readAll.seq fun _ => (takes_top 0).seq fun _ =>
        (takes_top 1).seq fun _ => (takes_num _).seq fun _ => (takes_ownState 0).seq fun _ =>
          (takes_num _).seq fun _ => (takes_setOwnState (by decide) _).seq fun _ =>
            (takes_num _).seq fun _ => takes_pushTwice b _
  | speed b =>
    exact .intro [] 0 (fun _ => rfl) <|
      (takes_need 1).seq fun _ => (takes_top 0).seq fun _ => (takes_drop 1).seq fun _ =>
        (takes_ownState 0).seq fun _ => (takes_num _).seq fun _ => (takes_num _).seq fun _ =>
          (takes_truncI _).seq fun _ => (takes_change fun _ => {}).seq fun _ =>
            (takes_num _).seq fun _ => takes_setOwnState (by decide) _
  | sync b =>
    exact .intro [] 0 (fun _ => rfl) <|
      (takes_need 1).seq fun _ => takes_readAll.seq fun _ => (takes_top 0).seq fun _ =>
        .ite (takes_syncWrite _) (takes_pure _)
  | send b t0 a => exact isUnit_send b t0 a
  | delay b t0 t1 t2 t3 t4 x0 x1 => exact isUnit_delay b t0 t1 t2 t3 t4 x0 x1
  | oscillator b t0 t1 t2 t3 t4 t5 x0 g => exact isUnit_oscillator b t0 t1 t2 t3 t4 t5 x0 g

end Sys2Proof.Machine
end

section
/-! The invariant of the core (StepKeepsWf): host commands, the sample loop, and one command. -/
namespace Sys2Proof.Machine

/-! ### The part of the invariant that no phase adds to -/

/-- What `State.Wf` says of memory, of the patch, of the seed and of the stack, in every phase. -/
structure MemoryWf (s : State) : Prop where
  voices : VoicesWf s.voices
  lines : LinesWf s.lines
  patch : validate s.patch = none
  linesEnough : requiredLines s.patch ≤ s.lines.length
  seed : s.randSeed.getLsbD 0 = true
  stack : s.stk.length ≤ stackCap s

theorem State.Wf.memory {s : State} (h : s.Wf) : MemoryWf s :=
  { h with }

/-- Outside a Render call nothing else is asked of a state. -/
theorem MemoryWf.wf_of_idle {s : State} (h : MemoryWf s) (hidle : s.phase = .idle) : s.Wf where
  __ := h
  boundary := by simp [hidle]
  poison := fun _ => hidle
  running := by simp [hidle]
  inStep := by simp [hidle]

/-- Fault entry ends the call and leaves memory as it is (R710). -/
theorem MemoryWf.wf_faultEntry {s : State} (h : MemoryWf s) (e : RenderError) (site : Option Nat) :
    (faultEntry e site s).Wf :=
  MemoryWf.wf_of_idle { h with } rfl

theorem MemoryWf.fetched {s : State} (h : MemoryWf s) : MemoryWf (fetched s) :=
  { h with }

theorem MemoryWf.operandsRead {s : State} (h : MemoryWf s) {ts : List Byte} (n : Nat)
    (hu : s.ui < 63) (hts : ts.length ≤ 8) : MemoryWf (operandsRead ts n s) where
  voices := h.voices.operandsRead n hu hts
  lines := by simpa using h.lines
  patch := by simpa using h.patch
  linesEnough := by simpa using h.linesEnough
  seed := by simpa using h.seed
  stack := by simpa [stackCap] using h.stack

theorem MemoryWf.kept {n : Nat} {s t : State} (h : MemoryWf s) (hu : s.ui < 63) (hk : Kept n s t) :
    MemoryWf t where
  voices := hk.voices hu h.voices
  lines := hk.lines h.lines
  patch := hk.patch ▸ h.patch
  linesEnough := by rw [hk.patch, hk.lineCount]; exact h.linesEnough
  seed := hk.seed h.seed
  stack := hk.stack h.stack

/-! ### Host commands -/

theorem linesWf_zeroLines (n : Nat) : LinesWf (List.replicate n zeroLine) := fun _ hl =>
  List.eq_of_mem_replicate hl ▸ rfl

theorem linesWf_growLines {ls : List DelayLine} (h : LinesWf ls) (n : Nat) :
    LinesWf (growLines ls n) := fun l hl =>
  (List.mem_append.1 hl).elim (h l) (linesWf_zeroLines _ l)

theorem le_length_growLines (ls : List DelayLine) (n : Nat) : n ≤ (growLines ls n).length := by
  rw [growLines, List.length_append, List.length_replicate]
  omega

theorem voicesWf_zeroVoices : VoicesWf (Vector.replicate 32 zeroVoice) := fun v => by
  simp [Vector.get_eq_getElem, zeroVoice, Memory.wf, Memory.wfFrom]

theorem voicesWf_cleared (m : Vector Voice 32) :
    VoicesWf (m.map fun r => { r with units := [] }) := fun v => by
  simp [Vector.get_eq_getElem, Memory.wf, Memory.wfFrom]

theorem MemoryWf.createCore {p : BytePatch} (s : State) (hp : validate p = none) :
    MemoryWf (createCore p s) where
  voices := voicesWf_zeroVoices
  lines := linesWf_zeroLines _
  patch := hp
  linesEnough := List.length_replicate.ge
  seed := show (1 : Word).getLsbD 0 = true by decide
  stack := Nat.zero_le _

theorem MemoryWf.updateCore {p : BytePatch} {s : State} (h : MemoryWf s) (hp : validate p = none) :
    MemoryWf (updateCore p s) where
  voices := by
    simp only [Machine.updateCore, recover]
    split
    · exact h.voices
    · exact voicesWf_cleared s.voices
  lines := linesWf_growLines h.lines _
  patch := hp
  linesEnough := le_length_growLines _ _
  seed := h.seed
  stack := h.stack

/-- Setting one record to a canonical one keeps memory; `setVoice` writes nothing else. -/
theorem MemoryWf.setVoice {s : State} (h : MemoryWf s) (v : Int) {f : Voice → Voice}
    (hf : ∀ r, Memory.wf unitWords r.units = true → Memory.wf unitWords (f r).units = true) :
    MemoryWf (setVoice v f s) ∧ (setVoice v f s).phase = s.phase := by
  rw [Machine.setVoice]
  split
  · refine ⟨⟨fun w => ?_, h.lines, h.patch, h.linesEnough, h.seed, h.stack⟩, rfl⟩
    have hw := h.voices w
    simp only [Vector.get_eq_getElem, Vector.getElem_set] at hw ⊢
    split
    · rename_i heq
      exact hf _ (by simpa [heq] using hw)
    · exact hw
  · exact ⟨h, rfl⟩

/-- A Render call starts with the four scratch elements and empty positions (R630). -/
theorem hostRender_wf {s : State} (h : MemoryWf s) (hidle : s.phase = .idle)
    (buffer syncBuffer : List F32) (maxtime : Int) :
    (hostRender buffer syncBuffer maxtime s).Wf := by
  rw [hostRender]
  split
  · exact MemoryWf.wf_of_idle { h with } hidle
  · rename_i hpoison
    exact
      { h with
        stack := Nat.le_add_right 4 _
        boundary := fun _ => rfl
        poison := fun hp => absurd hp hpoison
        running := fun _ => ⟨rfl, rfl, Nat.zero_le _, Nat.zero_le _⟩
        inStep := fun hp => by cases hp }

theorem runHostCommand_wf {s : State} (h : MemoryWf s) (hidle : s.phase = .idle) (c : HostCommand) :
    (runHostCommand c s).Wf := by
  have hresult {t : State} (r : Option HostResult) (ht : MemoryWf t) (hp : t.phase = .idle) :
      ({ t with result := r } : State).Wf :=
    MemoryWf.wf_of_idle { ht with } hp
  cases c with
  | create p =>
    simp only [runHostCommand, hostCreate]
    split
    · exact hresult _ h hidle
    · rename_i hp
      exact hresult _ (.createCore s hp) hidle
  | trigger v note =>
    obtain ⟨hm, hphase⟩ := h.setVoice v
      (f := fun _ => { note := note, release := false, units := [] }) fun _ _ => rfl
    exact hresult _ hm (hphase.trans hidle)
  | release v =>
    obtain ⟨hm, hphase⟩ := h.setVoice v (f := fun r => { r with release := true }) fun _ hr => hr
    exact hresult _ hm (hphase.trans hidle)
  | update p =>
    simp only [runHostCommand, hostUpdate]
    split
    · exact hresult _ h hidle
    · rename_i hp
      exact hresult _ (h.updateCore hp) hidle
  | render buffer syncBuffer maxtime => exact hostRender_wf h hidle buffer syncBuffer maxtime

theorem idleStep_wf {s : State} (h : s.Wf) (hidle : s.phase = .idle) : (idleStep s).Wf := by
  rw [idleStep]
  cases s.hostQueue with
  | nil => exact h
  | cons c cs =>
    exact runHostCommand_wf (s := { s with hostQueue := cs })
      { h with } hidle c

/-! ### The sample loop -/

/-- The cursors at the start of a sample step: nothing is consumed, and the walk ahead is the whole
walk of R603. -/
theorem resetSequencer_inStep {s : State} (h : MemoryWf s) (hroom : s.bufPos + 2 ≤ bufCap s) :
    (resetSequencer s).InStep := by
  obtain ⟨-, hsegments⟩ := validate_eq_none h.patch
  exact
    { room := hroom
      cc := Nat.zero_le _
      cci := Nat.zero_le _
      vc := Nat.zero_le _
      vci := Nat.zero_le _
      ui := Nat.zero_le _
      dl := Nat.zero_le _
      voices := fun _ => Nat.zero_add _
      segment := fun _ => hsegments
      instrument := hsegments
      lines := (Nat.zero_add _).trans_le h.linesEnough }

theorem resetSequencer_wf {s : State} (h : s.Wf) (hphase : s.phase = .loopTest)
    (hroom : s.bufPos + 2 ≤ bufCap s) : (resetSequencer s).Wf where
  __ := h
  boundary := fun hp => by cases hp
  poison := fun hp => absurd (h.poison hp) (by simp [hphase])
  running := fun _ => h.running (by simp [hphase])
  inStep := fun _ => resetSequencer_inStep h.memory hroom

/-- A sync record leaves the rest of the invariant alone (R401). -/
theorem syncRecord_wf {s : State} (h : s.Wf) (hphase : s.phase = .sampleStep) :
    (finishOutside (syncRecord s)).Wf := by
  have hstep := h.inStep hphase
  obtain ⟨hresult, hpos, hcap, -⟩ := h.running (by simp [hphase])
  rw [syncRecord, readAll_bind]
  split
  · rw [syncWrite_bind]
    split
    · rename_i hsync
      exact
        { h with
          running := fun _ =>
            ⟨hresult, hpos, hcap, (Nat.succ_le_of_lt hsync).trans_eq List.length_set.symm⟩
          inStep := fun _ => { hstep with } }
    · exact h.memory.wf_faultEntry _ _
  · exact h

theorem loopStep_wf {s : State} (h : s.Wf) (hphase : s.phase = .loopTest) : (loopStep s).Wf := by
  rw [loopStep]
  split
  · rename_i hgo
    have hroom : s.bufPos + 2 ≤ bufCap s := by
      simp only [loopGoesOn, Bool.and_eq_true, decide_eq_true_eq] at hgo
      exact hgo.2
    exact syncRecord_wf (resetSequencer_wf h hphase hroom) rfl
  · exact MemoryWf.wf_of_idle { h with } rfl

/-- The end of a sample step at depth 4 has room for the sample it emits (R410). -/
theorem endOfStep_wf {s : State} (h : s.Wf) (hphase : s.phase = .sampleStep) :
    (endOfStep s).Wf := by
  rw [endOfStep]
  split
  · exact h.memory.wf_faultEntry _ _
  · split
    · exact h.memory.wf_faultEntry _ _
    · obtain ⟨hresult, hpos, -, hsync⟩ := h.running (by simp [hphase])
      have hroom := (h.inStep hphase).room
      have hbuffer : bufCap (emitSample s) = bufCap s := by simp [bufCap, emitSample]
      exact
        { h with
          boundary := fun _ => show s.stk.length = 4 by omega
          poison := fun hp => absurd (h.poison hp) (by simp [hphase])
          running := fun _ =>
            ⟨hresult, show s.bufPos + 2 = 2 * (s.samples + 1) by omega, hbuffer ▸ hroom, hsync⟩
          inStep := fun hp => by cases hp }

/-! ### One command -/

/-- The list from the command cursor on starts with the fetched byte. -/
theorem drop_commands {s : State} {c : Byte} (hc : s.patch.commands[s.cc]? = some c) :
    s.patch.commands.drop s.cc = c :: s.patch.commands.drop (s.cc + 1) := by
  obtain ⟨hlt, rfl⟩ := List.getElem?_eq_some_iff.1 hc
  exact List.drop_eq_getElem_cons hlt

/-- `advance` ends its segment: the next voice starts at a segment's start (R404). -/
theorem execAdvance_wf {s t : State} {c : Byte} (b : Bool) (h : s.Wf)
    (hphase : s.phase = .sampleStep) (hvr : s.vr ≠ 0) (hc : s.patch.commands[s.cc]? = some c)
    (hop : opcodeOf c = 0) (ht : execAdvance b (fetched s) = .next t) : t.Wf := by
  have hs := h.inStep hphase
  have hcs := drop_commands hc
  have hcc : s.cc + 1 ≤ s.patch.commands.length := (List.getElem?_eq_some_iff.1 hc).1
  obtain ⟨n, hn⟩ := Nat.exists_eq_succ_of_ne_zero hvr
  have hsum := hs.voices hvr
  have h32 := (validate_eq_none h.patch).1
  have hahead := hs.lines
  rw [linesAhead, hcs, hn, walkVoices_advance _ _ hop] at hahead
  have hsegment := segmentsFit_advance hop (hcs ▸ hs.segment hvr)
  have hnext (hn0 : n ≠ 0) : (s.vi + 1).val + n = s.patch.numVoices := by
    rw [Fin.val_add]
    simp
    omega
  simp only [execAdvance, fetched, hn, Nat.succ_sub_one] at ht
  cases ht
  split
  · rename_i hn0
    exact { h with
      inStep := fun _ => { hs with
        cc := hcc
        voices := fun hv => absurd hn0 hv
        segment := fun hv => absurd hn0 hv
        lines := by simpa [linesAhead, hn0, walkVoices] using hs.dl } }
  · split
    · rename_i hn0 hshare
      rw [if_pos hshare] at hahead
      exact { h with
        inStep := fun _ => { hs with
          cc := hs.cci
          vc := hs.vci
          ui := Nat.zero_le _
          voices := hnext
          segment := fun _ => hs.instrument
          lines := hahead } }
    · rename_i hn0 hshare
      rw [if_neg hshare] at hahead
      exact { h with
        inStep := fun _ => { hs with
          cc := hcc
          cci := hcc
          vci := hs.vc
          ui := Nat.zero_le _
          voices := hnext
          segment := fun _ => hsegment
          instrument := hsegment
          lines := hahead } }

/-- The cursors after a unit: what it consumed is what the walk of R603 counted for it. -/
theorem inStep_of_kept {s t : State} {c : Byte} {i : Instr} {ts : List Byte} {n : Nat}
    (hs : s.InStep) (hvr : s.vr ≠ 0) (hc : s.patch.commands[s.cc]? = some c)
    (hop : opcodeOf c ≠ 0) (hdec : decode c (valuesAhead s) = .instr i)
    (hlen : ts.length + n = i.operands.length)
    (hk : Kept (linesTaken i) (operandsRead ts n (fetched s)) t) :
    ({ t with ui := t.ui + 1 } : State).InStep := by
  obtain ⟨rfl, hpre, hwf⟩ := decode_eq_instr hdec
  have hcs := drop_commands hc
  have hpatch : t.patch = s.patch := by simp [hk.patch, fetched]
  have hcc : t.cc = s.cc + 1 := by simp [hk.cc, fetched]
  have hvc : t.vc = s.vc + i.operands.length := by simp [hk.vc, fetched, ← hlen, Nat.add_assoc]
  have hcci : t.cci = s.cci := by simp [hk.cci, fetched]
  have hvci : t.vci = s.vci := by simp [hk.vci, fetched]
  have hvi : t.vi = s.vi := by simp [hk.vi, fetched]
  have hvr' : t.vr = s.vr := by simp [hk.vr, fetched]
  have hui : t.ui = s.ui := by simp [hk.ui, fetched]
  have hdl : t.dl = s.dl + linesTaken i := by simp [hk.dl, fetched]
  have hlines : t.lines.length = s.lines.length := by simp [hk.lineCount, fetched]
  have hbufPos : t.bufPos = s.bufPos := by simp [hk.bufPos, fetched]
  have hbuffer : t.buffer = s.buffer := by simp [hk.buffer, fetched]
  have hfit : s.vc + i.operands.length ≤ s.patch.values.length := by
    have hle := hpre.length_le
    rw [valuesAhead, List.length_drop] at hle
    have := hs.vc
    omega
  obtain ⟨hunit, hsegment⟩ := segmentsFit_command hop (hcs ▸ hs.segment hvr)
  have hahead := hs.lines
  rw [linesAhead, hcs, walkVoices_command _ _ hvr hop (walkCommand_command hpre hwf) hfit,
    ← Nat.add_assoc] at hahead
  exact
    { room := by simpa only [bufCap, hbufPos, hbuffer] using hs.room
      cc := by
        simp only [hcc, hpatch]
        exact (List.getElem?_eq_some_iff.1 hc).1
      cci := by simpa only [hcci, hpatch] using hs.cci
      vc := by simpa only [hvc, hpatch] using hfit
      vci := by simpa only [hvci, hpatch] using hs.vci
      ui := by
        simp only [hui]
        exact hunit
      dl := by
        simp only [hdl, hlines]
        omega
      voices := by simpa only [hvr', hvi, hpatch] using hs.voices
      segment := by simpa only [hvr', hui, hcc, hpatch] using fun _ => hsegment
      instrument := by simpa only [hcci, hpatch] using hs.instrument
      lines := by
        simpa only [linesAhead, hdl, hlines, hpatch, hvr', hcc, hvc, hcci, hvci] using hahead }

/-- A command that is no `advance` keeps the invariant, whether it completes or faults. -/
theorem runUnit_wf {s t : State} {c : Byte} {i : Instr} (h : s.Wf) (hphase : s.phase = .sampleStep)
    (hvr : s.vr ≠ 0) (hc : s.patch.commands[s.cc]? = some c) (hop : opcodeOf c ≠ 0)
    (hdec : decode c (valuesAhead s) = .instr i) (ht : exec i (fetched s) = .next t) : t.Wf := by
  obtain ⟨hcmd, -, -⟩ := decode_eq_instr hdec
  obtain ⟨ts, n, handler, hrun, hlen, hts, htakes⟩ := isUnit_of_ne_advance (hcmd ▸ hop)
  rw [hrun] at ht
  rcases runUnit_cases ts n handler (fetched s) with
    ⟨-, hout⟩ | ⟨hu, u, hok, hout⟩ | ⟨hu, e, u, herr, hout⟩
  · cases hout.symm.trans ht
    exact h.memory.fetched.wf_faultEntry _ _
  · cases hout.symm.trans ht
    have hk := htakes.ok hok
    have hm := (h.memory.fetched.operandsRead n hu hts).kept (by simpa using hu) hk
    obtain ⟨hresult, hpos, hcap, hsync⟩ := h.running (by simp [hphase])
    have hphase' : u.phase = .sampleStep := by simpa [hk.phase, fetched] using hphase
    exact
      { hm with
        boundary := fun hp => by cases hphase'.symm.trans hp
        poison := fun hp => by
          have hpoison : s.poisoned = true := by simpa [hk.poisoned, fetched] using hp
          exact absurd (h.poison hpoison) (by simp [hphase])
        running := fun _ =>
          ⟨by simpa [hk.result, fetched] using hresult,
            by simpa [hk.bufPos, hk.samples, fetched] using hpos,
            by simpa [bufCap, hk.bufPos, hk.buffer, fetched] using hcap,
            hk.sync (by simpa [syncCap, fetched] using hsync)⟩
        inStep := fun _ => inStep_of_kept (h.inStep hphase) hvr hc hop hdec hlen hk }
  · cases hout.symm.trans ht
    obtain ⟨k, hk⟩ := htakes.error herr
    exact ((h.memory.fetched.operandsRead n hu hts).kept (by simpa using hu) hk).wf_faultEntry _ _

/-- A truncated operand group ends in a fault, after the writes that are left (R405, R701). -/
theorem runTruncated_wf {s : State} (h : MemoryWf s) (op : Nat) (vs : List Byte) :
    (runTruncated op vs s).Wf := by
  have hcount : transformCount op ≤ 8 := by
    simp only [transformCount]
    split <;> decide
  rw [runTruncated]
  split
  · exact h.wf_faultEntry _ _
  · rename_i hu
    split
    · exact h.wf_faultEntry _ _
    · exact (h.operandsRead _ (by omega) (by simp; omega)).wf_faultEntry _ _

theorem undecoded_wf {s : State} (h : MemoryWf s) {d : Decoded} (hd : ∀ i, d ≠ .instr i) :
    (undecoded d s).Wf := by
  cases d with
  | instr i => exact absurd rfl (hd i)
  | illegal c => exact h.wf_faultEntry _ _
  | ended op => exact runTruncated_wf h op _

theorem exec_wf {s t : State} {c : Byte} {i : Instr} (h : s.Wf) (hphase : s.phase = .sampleStep)
    (hvr : s.vr ≠ 0) (hc : s.patch.commands[s.cc]? = some c)
    (hdec : decode c (valuesAhead s) = .instr i) (ht : exec i (fetched s) = .next t) : t.Wf := by
  by_cases hop : opcodeOf c = 0
  · have hadv : decode c (valuesAhead s) = .instr (.advance (stereoOf c)) := by simp [decode, hop]
    cases hdec.symm.trans hadv
    exact execAdvance_wf (stereoOf c) h hphase hvr hc hop ht
  · exact runUnit_wf h hphase hvr hc hop hdec ht

theorem executeOne_wf {s t : State} (h : s.Wf) (hphase : s.phase = .sampleStep) (hvr : s.vr ≠ 0)
    (ht : executeOne s = .next t) : t.Wf := by
  rw [executeOne] at ht
  cases hc : s.patch.commands[s.cc]? with
  | none =>
    rw [hc] at ht
    cases ht
    exact h.memory.wf_faultEntry _ _
  | some c =>
    simp only [hc] at ht
    cases hdec : decode c (valuesAhead s) with
    | instr i =>
      simp only [hdec] at ht
      exact exec_wf h hphase hvr hc hdec ht
    | illegal c' =>
      simp only [hdec] at ht
      cases ht
      exact undecoded_wf h.memory.fetched (by simp)
    | ended op =>
      simp only [hdec] at ht
      cases ht
      exact undecoded_wf h.memory.fetched (by simp)

end Sys2Proof.Machine

namespace Sys2Proof.Proofs
open Sys2Proof.Machine

/-- Settles O49: a step is a host command, a loop test, a command or the end of a sample step, and
each keeps the invariant. -/
theorem stepKeepsWf : Obligations.StepKeepsWf := by
  intro s t h ht
  rw [step] at ht
  cases hphase : s.phase with
  | idle =>
    rw [hphase] at ht
    cases ht
    exact idleStep_wf h hphase
  | loopTest =>
    rw [hphase] at ht
    cases ht
    exact loopStep_wf h hphase
  | sampleStep =>
    simp only [hphase] at ht
    split at ht
    · cases ht
      exact endOfStep_wf h hphase
    · rename_i hvr
      exact executeOne_wf h hphase hvr ht

end Sys2Proof.Proofs
end

section
/-! Rounding: what `roundRat` answers is finite below the overflow bound, and then nearest. -/
namespace Sys2Proof.Machine

/-! ### The nearest integer to a quotient -/

/-- The rounded quotient is within half a unit of the quotient, and even when it is half a unit
away. -/
theorem nearestEven_error (num : Nat) {den : Nat} (h : 0 < den) :
    2 * ((nearestEven num den : Int) * den - num).natAbs ≤ den ∧
      (2 * ((nearestEven num den : Int) * den - num).natAbs = den →
        nearestEven num den % 2 = 0) := by
  have hr := Nat.mod_lt num h
  have hnum := Nat.div_add_mod' num den
  simp only [nearestEven]
  generalize num / den = q at *
  generalize num % den = r at *
  subst hnum
  rcases Nat.mod_two_eq_zero_or_one q with hpar | hpar
  all_goals
    simp only [hpar, Nat.add_zero]
    split_ifs
    all_goals
      push_cast [add_one_mul]
      generalize (q : Int) * den = x
      omega

/-- No multiple of the divisor is closer than the rounded one, and another one is as close only
where the rounded one is even. -/
theorem nearestEven_nearest (num : Nat) {den : Nat} (h : 0 < den) (k : Int) :
    ((nearestEven num den : Int) * den - num).natAbs ≤ (k * den - num).natAbs ∧
      (k ≠ nearestEven num den →
        (k * den - num).natAbs = ((nearestEven num den : Int) * den - num).natAbs →
        nearestEven num den % 2 = 0) := by
  obtain ⟨herr, htie⟩ := nearestEven_error num h
  by_cases hk : k = nearestEven num den
  · exact ⟨hk ▸ le_rfl, fun hne => absurd hk hne⟩
  · have hgap : (den : Int) ≤ |k * den - (nearestEven num den : Int) * den| := by
      rw [← Int.sub_mul, abs_mul, Nat.abs_cast]
      exact le_mul_of_one_le_left (Int.natCast_nonneg _) (Int.one_le_abs (sub_ne_zero.2 hk))
    rw [Int.abs_eq_natAbs] at hgap
    generalize (nearestEven num den : Int) * den = x at *
    generalize k * (den : Int) = y at *
    exact ⟨by omega, fun _ heq => htie (by omega)⟩

theorem div_le_nearestEven (num den : Nat) : num / den ≤ nearestEven num den := by
  simp only [nearestEven]
  split_ifs <;> omega

theorem nearestEven_le (num den : Nat) : nearestEven num den ≤ num / den + 1 := by
  simp only [nearestEven]
  split_ifs <;> omega

/-- Rounding stays below an even bound exactly below the midpoint under that bound. -/
theorem nearestEven_lt_iff (num : Nat) {den : Nat} (h : 0 < den) {m : Nat} (hm : 0 < m)
    (heven : m % 2 = 0) : nearestEven num den < m ↔ 2 * num < (2 * m - 1) * den := by
  obtain ⟨herr, htie⟩ := nearestEven_error num h
  have hbound : (((2 * m - 1) * den : Nat) : Int) = 2 * (m * den : Int) - den := by
    rw [Nat.cast_mul, Nat.cast_sub (by omega)]
    push_cast
    ring
  constructor
  · intro hlt
    have hle : (nearestEven num den : Int) * den + den ≤ m * den := by
      rw [← add_one_mul]
      exact mul_le_mul_of_nonneg_right (by omega) (Int.natCast_nonneg _)
    by_contra hge
    have hpar := htie (by omega)
    have hne : nearestEven num den + 1 ≠ m := by omega
    have hle' : (nearestEven num den : Int) * den + 2 * den ≤ m * den := by
      rw [← add_mul]
      exact mul_le_mul_of_nonneg_right (by omega) (Int.natCast_nonneg _)
    omega
  · intro hlt
    by_contra hge
    have hle : (m : Int) * den ≤ (nearestEven num den : Int) * den :=
      mul_le_mul_of_nonneg_right (by omega) (Int.natCast_nonneg _)
    omega

/-! ### The fields of a rounded value -/

/-- The exponent `roundBits` shifts by: the bits of the quotient beyond 24. -/
def dropBits (num den : Nat) : Nat := Nat.log2 (num / den) - 23

/-- The significand `roundBits` rounds to. -/
def significand (num den : Nat) : Nat := nearestEven num (den * 2 ^ dropBits num den)

theorem roundBits_eq (num den : Nat) :
    roundBits num den = min (dropBits num den * 2 ^ 23 + significand num den) 0x7F800000 := rfl

theorem lt_of_dropBits {num den : Nat} (h : 0 < den) :
    num < 2 ^ 24 * (den * 2 ^ dropBits num den) := by
  have hlt : num / den < 2 ^ (24 + dropBits num den) :=
    (Nat.lt_log2_self (n := num / den)).trans_le
      (Nat.pow_le_pow_right (by decide) (by rw [dropBits]; omega))
  calc num < 2 ^ (24 + dropBits num den) * den := (Nat.div_lt_iff_lt_mul h).1 hlt
    _ = 2 ^ 24 * (den * 2 ^ dropBits num den) := by ring

theorem le_of_dropBits {num den : Nat} (h : 0 < den) (he : dropBits num den ≠ 0) :
    2 ^ 23 * (den * 2 ^ dropBits num den) ≤ num := by
  rw [dropBits] at he
  have hne : num / den ≠ 0 := fun h0 => he (by rw [h0]; rfl)
  have hle : 2 ^ (23 + dropBits num den) ≤ num / den :=
    (Nat.pow_le_pow_right (by decide) (by rw [dropBits]; omega)).trans (Nat.log2_self_le hne)
  calc 2 ^ 23 * (den * 2 ^ dropBits num den) = 2 ^ (23 + dropBits num den) * den := by ring
    _ ≤ num := (Nat.le_div_iff_mul_le h).1 hle

theorem significand_le {num den : Nat} (h : 0 < den) : significand num den ≤ 2 ^ 24 := by
  have hpos : 0 < den * 2 ^ dropBits num den := by positivity
  have hq : num / (den * 2 ^ dropBits num den) < 2 ^ 24 :=
    (Nat.div_lt_iff_lt_mul hpos).2 (lt_of_dropBits h)
  exact (nearestEven_le _ _).trans hq

theorem le_significand {num den : Nat} (h : 0 < den) (he : dropBits num den ≠ 0) :
    2 ^ 23 ≤ significand num den := by
  have hpos : 0 < den * 2 ^ dropBits num den := by positivity
  exact ((Nat.le_div_iff_mul_le hpos).2 (le_of_dropBits h he)).trans (div_le_nearestEven _ _)

theorem toNat_roundRat (neg : Bool) (num den : Nat) :
    (roundRat neg num den).toNat = (if neg then 2 ^ 31 else 0) + roundBits num den := by
  have hle : roundBits num den ≤ 0x7F800000 := min_le_right _ _
  rw [roundRat, BitVec.toNat_ofNat]
  cases neg <;> simp <;> omega

theorem roundRat_fields (neg : Bool) (num den : Nat) :
    isNeg (roundRat neg num den) = neg ∧
      expField (roundRat neg num den) = roundBits num den / 2 ^ 23 ∧
      fracField (roundRat neg num den) = roundBits num den % 2 ^ 23 :=
  have hle : roundBits num den ≤ 0x7F800000 := min_le_right _ _
  fields_of_toNat (by omega) neg (toNat_roundRat neg num den)

@[simp] theorem isNeg_roundRat (neg : Bool) (num den : Nat) : isNeg (roundRat neg num den) = neg :=
  (roundRat_fields neg num den).1

@[simp] theorem isNaN_roundRat (neg : Bool) (num den : Nat) :
    isNaN (roundRat neg num den) = false := by
  have hle : roundBits num den ≤ 0x7F800000 := min_le_right _ _
  obtain ⟨-, hexp, hfrac⟩ := roundRat_fields neg num den
  rw [isNaN, hexp, hfrac, Bool.and_eq_false_imp]
  intro h
  simp only [beq_iff_eq] at h
  simp only [bne_eq_false_iff_eq]
  omega

/-- A rounded value is finite where the exponent and the significand stay in their fields. -/
theorem isFinite_roundRat_iff_lt (neg : Bool) (num den : Nat) :
    isFinite (roundRat neg num den) = true ↔
      dropBits num den * 2 ^ 23 + significand num den < 0x7F800000 := by
  obtain ⟨-, hexp, -⟩ := roundRat_fields neg num den
  rw [isFinite, hexp, roundBits_eq, bne_iff_ne]
  omega

/-- The overflow bound in units of 2^-149: half a unit in the last place above the largest finite
value. -/
def overflowBound : Nat := (2 ^ 25 - 1) * 2 ^ 252

/-- R14: a rounded value is finite exactly below the overflow bound. -/
theorem isFinite_roundRat {num den : Nat} (neg : Bool) (h : 0 < den) :
    isFinite (roundRat neg num den) = true ↔ num < overflowBound * den := by
  rw [isFinite_roundRat_iff_lt]
  have hq := significand_le (num := num) h
  have hlt := lt_of_dropBits (num := num) h
  have hle := le_of_dropBits (num := num) h
  have hqle := le_significand (num := num) h
  rcases Nat.lt_trichotomy (dropBits num den) 253 with he | he | he
  · have hpow : 2 ^ dropBits num den ≤ 2 ^ 252 := Nat.pow_le_pow_right (by decide) (by omega)
    have hnum : num < overflowBound * den :=
      calc num < 2 ^ 24 * (den * 2 ^ dropBits num den) := hlt
        _ ≤ 2 ^ 24 * (den * 2 ^ 252) := by gcongr
        _ = 2 ^ 24 * 2 ^ 252 * den := by ring
        _ ≤ overflowBound * den := Nat.mul_le_mul_right _ (by decide)
    exact iff_of_true (by omega) hnum
  · have hiff := nearestEven_lt_iff num (den := den * 2 ^ 253) (by positivity) (m := 2 ^ 24)
      (by decide) (by decide)
    rw [significand, he, overflowBound]
    generalize nearestEven num (den * 2 ^ 253) = q at *
    omega
  · have hpow : 2 ^ 254 ≤ 2 ^ dropBits num den := Nat.pow_le_pow_right (by decide) he
    have hnum : overflowBound * den ≤ num :=
      calc overflowBound * den ≤ 2 ^ 23 * 2 ^ 254 * den := Nat.mul_le_mul_right _ (by decide)
        _ = 2 ^ 23 * (den * 2 ^ 254) := by ring
        _ ≤ 2 ^ 23 * (den * 2 ^ dropBits num den) := by gcongr
        _ ≤ num := hle (by omega)
    have := hqle (by omega)
    exact iff_of_false (by omega) (by omega)

/-- A finite rounded value is its significand with the dropped bits put back. -/
theorem magnitude_roundRat {neg : Bool} {num den : Nat} (h : 0 < den)
    (hfin : isFinite (roundRat neg num den) = true) :
    magnitude (roundRat neg num den) = significand num den * 2 ^ dropBits num den := by
  have hlt := (isFinite_roundRat_iff_lt neg num den).1 hfin
  obtain ⟨-, hexp, hfrac⟩ := roundRat_fields neg num den
  have hq := significand_le (num := num) h
  have hqle := le_significand (num := num) h
  rw [roundBits_eq, Nat.min_eq_left (by omega)] at hexp hfrac
  generalize dropBits num den = e at *
  generalize significand num den = q at *
  rcases Nat.lt_or_ge q (2 ^ 23) with hsub | hnormal
  · obtain rfl : e = 0 := by
      by_contra he
      have := hqle he
      omega
    have hexp0 : expField (roundRat neg num den) = 0 := by omega
    rw [magnitude, if_pos hexp0, hfrac]
    omega
  · rcases Nat.lt_or_ge q (2 ^ 24) with hno | hcarry
    · have hexp1 : expField (roundRat neg num den) = e + 1 := by omega
      have hfrac1 : fracField (roundRat neg num den) = q - 2 ^ 23 := by omega
      rw [magnitude, if_neg (by omega), hexp1, hfrac1, Nat.add_sub_of_le hnormal,
        Nat.add_sub_cancel]
    · obtain rfl : q = 2 ^ 24 := by omega
      have hexp2 : expField (roundRat neg num den) = e + 2 := by omega
      have hfrac2 : fracField (roundRat neg num den) = 0 := by omega
      rw [magnitude, if_neg (by omega), hexp2, hfrac2, Nat.add_zero,
        show e + 2 - 1 = e + 1 by omega, pow_succ]
      ring

/-- The last bit of a finite rounded value is the last bit of its significand. -/
theorem getLsbD_zero_roundRat {neg : Bool} {num den : Nat}
    (hfin : isFinite (roundRat neg num den) = true) (heven : significand num den % 2 = 0) :
    (roundRat neg num den).getLsbD 0 = false := by
  have hlt := (isFinite_roundRat_iff_lt neg num den).1 hfin
  rw [← BitVec.testBit_toNat, Nat.testBit_zero, toNat_roundRat, roundBits_eq,
    decide_eq_false_iff_not]
  cases neg <;> simp <;> omega

/-! ### Nearest values -/

/-- Every value lies on the grid of a given exponent, or below the normal values of that
exponent. -/
theorem magnitude_grid (c : F32) (e : Nat) :
    2 ^ e ∣ magnitude c ∨ (e ≠ 0 ∧ magnitude c < 2 ^ 23 * 2 ^ e) := by
  have hf := fracField_lt c
  rcases Nat.eq_zero_or_pos e with rfl | he
  · exact .inl (by simp)
  · rw [magnitude]
    split
    · exact .inr ⟨by omega, hf.trans_le (Nat.le_mul_of_pos_right _ (by positivity))⟩
    · rcases Nat.lt_or_ge (expField c - 1) e with hexp | hexp
      · refine .inr ⟨by omega, ?_⟩
        have hpow : 2 ^ (expField c - 1) ≤ 2 ^ (e - 1) :=
          Nat.pow_le_pow_right (by decide) (by omega)
        calc (2 ^ 23 + fracField c) * 2 ^ (expField c - 1)
            < 2 ^ 24 * 2 ^ (expField c - 1) :=
              Nat.mul_lt_mul_of_pos_right (by omega) (by positivity)
          _ ≤ 2 ^ 24 * 2 ^ (e - 1) := by gcongr
          _ = 2 ^ 23 * 2 ^ e := by rw [← pow_add, ← pow_add]; congr 1; omega
      · exact .inl ((pow_dvd_pow 2 hexp).mul_left _)

/-- R14: no value of either sign is closer to the quotient than the rounded one, and another one is
as close only where bit 0 of the rounded one is 0. -/
theorem roundRat_nearest {neg : Bool} {num den : Nat} (h : 0 < den)
    (hfin : isFinite (roundRat neg num den) = true) {c : F32} {z : Int}
    (hz : z.natAbs = magnitude c) :
    ((magnitude (roundRat neg num den) : Int) * den - num).natAbs ≤ (z * den - num).natAbs ∧
      (z ≠ magnitude (roundRat neg num den) →
        (z * den - num).natAbs = ((magnitude (roundRat neg num den) : Int) * den - num).natAbs →
        (roundRat neg num den).getLsbD 0 = false) := by
  have hpos : 0 < den * 2 ^ dropBits num den := by positivity
  have hnearest := nearestEven_nearest num hpos
  have hmag : (magnitude (roundRat neg num den) : Int) * den =
      (significand num den : Int) * (den * 2 ^ dropBits num den : Nat) := by
    rw [magnitude_roundRat h hfin]
    push_cast
    ring
  rw [hmag]
  rcases magnitude_grid c (dropBits num den) with hgrid | ⟨he, hsmall⟩
  · obtain ⟨k, rfl⟩ : ((2 ^ dropBits num den : Nat) : Int) ∣ z :=
      Int.natCast_dvd.2 (hz ▸ hgrid)
    have hk : ((2 ^ dropBits num den : Nat) : Int) * k * den =
        k * (den * 2 ^ dropBits num den : Nat) := by
      push_cast
      ring
    rw [hk]
    refine ⟨(hnearest k).1, fun hne heq => getLsbD_zero_roundRat hfin ((hnearest k).2 ?_ heq)⟩
    rintro rfl
    exact hne (by rw [magnitude_roundRat h hfin, significand]; push_cast; ring)
  · have hlow := (hnearest (2 ^ 23 : Nat)).1
    have hle := le_of_dropBits h he
    have hzlt : z.natAbs * den < 2 ^ 23 * (den * 2 ^ dropBits num den) :=
      calc z.natAbs * den < 2 ^ 23 * 2 ^ dropBits num den * den :=
            Nat.mul_lt_mul_of_pos_right (hz ▸ hsmall) h
        _ = 2 ^ 23 * (den * 2 ^ dropBits num den) := by ring
    have hzle : z * den ≤ (z.natAbs * den : Nat) := by
      rw [Nat.cast_mul]
      exact mul_le_mul_of_nonneg_right Int.le_natAbs (Int.natCast_nonneg _)
    rw [significand]
    generalize den * 2 ^ dropBits num den = grid at *
    generalize (nearestEven num grid : Int) * grid = x at *
    generalize z.natAbs * den = w at *
    generalize z * (den : Int) = y at *
    exact ⟨by omega, fun _ heq => by omega⟩

end Sys2Proof.Machine
end

section
/-! Sums, products, quotients and `ToF32`: nearest results, signs, infinities and NaNs
(ArithmeticNearest). -/
namespace Sys2Proof.Machine

/-! ### Kinds of values -/

theorem isNaN_of_isFinite {x : F32} (h : isFinite x = true) : isNaN x = false := by
  simp only [isFinite, bne_iff_ne, ne_eq] at h
  simp [isNaN, h]

theorem isInf_of_isFinite {x : F32} (h : isFinite x = true) : isInf x = false := by
  simp only [isFinite, bne_iff_ne, ne_eq] at h
  simp [isInf, h]

theorem isFinite_of_not {x : F32} (hnan : isNaN x = false) (hinf : isInf x = false) :
    isFinite x = true := by
  by_contra h
  simp only [isFinite, bne_iff_ne, ne_eq, not_not] at h
  simp_all [isNaN, isInf]

/-- An infinity stands above every finite magnitude. -/
theorem magnitude_of_isInf {x : F32} (h : isInf x = true) : magnitude x = 2 ^ 23 * 2 ^ 254 := by
  simp only [isInf, Bool.and_eq_true, beq_iff_eq] at h
  simp [magnitude, h]

theorem magnitude_lt_of_isFinite {x : F32} (h : isFinite x = true) :
    magnitude x < 2 ^ 23 * 2 ^ 254 := by
  have he := expField_lt x
  have hf := fracField_lt x
  simp only [isFinite, bne_iff_ne, ne_eq] at h
  rw [magnitude]
  split
  · exact hf.trans (by decide)
  · have hpow : 2 ^ (expField x - 1) ≤ 2 ^ 253 := Nat.pow_le_pow_right (by decide) (by omega)
    calc (2 ^ 23 + fracField x) * 2 ^ (expField x - 1)
        < 2 ^ 24 * 2 ^ (expField x - 1) := Nat.mul_lt_mul_of_pos_right (by omega) (by positivity)
      _ ≤ 2 ^ 24 * 2 ^ 253 := by gcongr
      _ = 2 ^ 23 * 2 ^ 254 := by decide

theorem isZero_of_isInf {x : F32} (h : isInf x = true) : isZero x = false := by
  simp [isZero, magnitude_of_isInf h]

theorem scaled_eq_zero_iff {x : F32} : scaled x = 0 ↔ magnitude x = 0 := by
  rw [← Int.natAbs_eq_zero, natAbs_scaled]

@[simp] theorem isNeg_zeroOf (neg : Bool) : isNeg (zeroOf neg) = neg := by cases neg <;> decide
@[simp] theorem isNaN_zeroOf (neg : Bool) : isNaN (zeroOf neg) = false := by cases neg <;> decide
@[simp] theorem isFinite_zeroOf (neg : Bool) : isFinite (zeroOf neg) = true := by
  cases neg <;> decide
@[simp] theorem scaled_zeroOf (neg : Bool) : scaled (zeroOf neg) = 0 := by cases neg <;> decide
@[simp] theorem isNeg_infOf (neg : Bool) : isNeg (infOf neg) = neg := by cases neg <;> decide
@[simp] theorem isNaN_infOf (neg : Bool) : isNaN (infOf neg) = false := by cases neg <;> decide
@[simp] theorem isInf_infOf (neg : Bool) : isInf (infOf neg) = true := by cases neg <;> decide

theorem isNeg_fneg (x : F32) : isNeg (fneg x) = !isNeg x := by
  simp [isNeg, fneg]

theorem toNat_fneg_mod (x : F32) : (fneg x).toNat % 2 ^ 31 = x.toNat % 2 ^ 31 := by
  rw [fneg, BitVec.toNat_xor, Nat.xor_mod_two_pow]
  simp

@[simp] theorem expField_fneg (x : F32) : expField (fneg x) = expField x := by
  have := toNat_fneg_mod x
  simp only [expField]
  omega

@[simp] theorem fracField_fneg (x : F32) : fracField (fneg x) = fracField x := by
  have := toNat_fneg_mod x
  simp only [fracField]
  omega

@[simp] theorem isFinite_fneg (x : F32) : isFinite (fneg x) = isFinite x := by simp [isFinite]
@[simp] theorem magnitude_fneg (x : F32) : magnitude (fneg x) = magnitude x := by simp [magnitude]
@[simp] theorem scaled_fneg (x : F32) : scaled (fneg x) = -scaled x := by
  rw [scaled, scaled, isNeg_fneg, magnitude_fneg]
  cases isNeg x <;> simp

/-! ### The operations on finite values -/

theorem addAt_finite {a b : F32} (ha : isFinite a = true) (hb : isFinite b = true) (d : Nat) :
    addAt d a b = if scaled a + scaled b = 0 then zeroOf (isNeg a && isNeg b)
      else roundRat (scaled a + scaled b < 0) (scaled a + scaled b).natAbs 1 := by
  simp [addAt, isNaN_of_isFinite, isInf_of_isFinite, ha, hb]

theorem mulAt_finite {a b : F32} (ha : isFinite a = true) (hb : isFinite b = true) (d : Nat) :
    mulAt d a b = roundRat (isNeg a != isNeg b) (magnitude a * magnitude b) (2 ^ 149) := by
  simp [mulAt, isNaN_of_isFinite, isInf_of_isFinite, ha, hb]

theorem divAt_finite {a b : F32} (ha : isFinite a = true) (hb : isFinite b = true)
    (hne : magnitude b ≠ 0) (d : Nat) :
    divAt d a b = roundRat (isNeg a != isNeg b) (magnitude a * 2 ^ 149) (magnitude b) := by
  simp [divAt, isNaN_of_isFinite, isInf_of_isFinite, ha, hb, isZero, hne]

/-! ### Signed values -/

/-- The signed integer with a sign and a magnitude. -/
def signed (neg : Bool) (n : Nat) : Int := if neg then -(n : Int) else n

theorem scaled_eq_signed (x : F32) : scaled x = signed (isNeg x) (magnitude x) := rfl

@[simp] theorem signed_false (n : Nat) : signed false n = n := (rfl)
@[simp] theorem signed_true (n : Nat) : signed true n = -(n : Int) := (rfl)

theorem signed_mul (neg : Bool) (n k : Nat) : signed neg (n * k) = signed neg n * k := by
  cases neg <;> simp

theorem signed_not (neg : Bool) (n : Nat) : signed (!neg) n = -signed neg n := by
  cases neg <;> simp

theorem natAbs_signed (neg : Bool) (n : Nat) : (signed neg n).natAbs = n := by
  cases neg <;> simp [signed]

theorem signed_natAbs (x : Int) : signed (decide (x < 0)) x.natAbs = x := by
  rw [signed]
  split
  · rename_i h
    rw [decide_eq_true_iff] at h
    omega
  · rename_i h
    rw [decide_eq_true_iff] at h
    omega

theorem signed_mul_signed (neg neg' : Bool) (n n' : Nat) :
    signed neg n * signed neg' n' = signed (neg != neg') (n * n') := by
  cases neg <;> cases neg' <;> simp [signed]

/-- `r` is as close to `exact / unit` as `c`, and has bit 0 clear where a `c` of another value is
equally close (R14). -/
def NearestTo (c r : F32) (exact unit : Int) : Prop :=
  (scaled r * unit - exact).natAbs ≤ (scaled c * unit - exact).natAbs ∧
    (scaled c ≠ scaled r →
      (scaled c * unit - exact).natAbs = (scaled r * unit - exact).natAbs → r.getLsbD 0 = false)

theorem NearestTo.neg {c r : F32} {exact unit : Int} (h : NearestTo c r exact unit) :
    NearestTo c r (-exact) (-unit) := by
  have hflip (x : Int) : (x * -unit - -exact).natAbs = (x * unit - exact).natAbs := by
    rw [← Int.natAbs_neg]
    congr 1
    ring
  simpa only [NearestTo, hflip] using h

/-- A zero result of an exact zero. -/
theorem nearestTo_zeroOf (c : F32) (neg : Bool) (unit : Int) (hunit : unit ≠ 0) :
    NearestTo c (zeroOf neg) 0 unit := by
  simp only [NearestTo, scaled_zeroOf, Int.zero_mul, Int.sub_zero, Int.natAbs_zero]
  exact ⟨Nat.zero_le _, fun hne heq =>
    absurd (Int.natAbs_eq_zero.1 heq) (Int.mul_ne_zero hne hunit)⟩

theorem nearestTo_roundRat {neg : Bool} {num den : Nat} (c : F32) (h : 0 < den)
    (hfin : isFinite (roundRat neg num den) = true) :
    NearestTo c (roundRat neg num den) (signed neg num) den := by
  have hr : scaled (roundRat neg num den) = signed neg (magnitude (roundRat neg num den)) := by
    rw [scaled_eq_signed, isNeg_roundRat]
  cases neg with
  | false =>
    rw [NearestTo, hr, signed_false, signed_false]
    exact roundRat_nearest h hfin (natAbs_scaled c)
  | true =>
    obtain ⟨hle, htie⟩ := roundRat_nearest h hfin ((Int.natAbs_neg _).trans (natAbs_scaled c))
    have hflip (x : Int) : (x * den - num).natAbs = (-x * den - -(num : Int)).natAbs := by
      rw [← Int.natAbs_neg]
      congr 1
      ring
    simp only [hflip, neg_neg] at hle htie
    rw [NearestTo, hr, signed_true, signed_true]
    exact ⟨hle, fun hne => htie fun heq => hne (neg_eq_iff_eq_neg.1 heq)⟩

/-- The sum of two finite values (R14). -/
theorem addAt_nearest {a b : F32} (ha : isFinite a = true) (hb : isFinite b = true) (d : Nat)
    (c : F32) :
    (isFinite (addAt d a b) = true ↔ (scaled a + scaled b).natAbs < overflowBound) ∧
      (isFinite (addAt d a b) = true → NearestTo c (addAt d a b) (scaled a + scaled b) 1) := by
  rw [addAt_finite ha hb]
  split
  · rename_i h0
    rw [h0]
    exact ⟨iff_of_true (isFinite_zeroOf _) (by decide), fun _ => nearestTo_zeroOf c _ 1 (by decide)⟩
  · refine ⟨by simpa using isFinite_roundRat _ Nat.one_pos, fun hfin => ?_⟩
    have h := nearestTo_roundRat c Nat.one_pos hfin
    rwa [signed_natAbs] at h

/-- The product of two finite values (R14). -/
theorem mulAt_nearest {a b : F32} (ha : isFinite a = true) (hb : isFinite b = true) (d : Nat)
    (c : F32) :
    (isFinite (mulAt d a b) = true ↔ (scaled a * scaled b).natAbs < overflowBound * 2 ^ 149) ∧
      (isFinite (mulAt d a b) = true →
        NearestTo c (mulAt d a b) (scaled a * scaled b) (2 ^ 149)) := by
  rw [mulAt_finite ha hb, scaled_eq_signed a, scaled_eq_signed b, signed_mul_signed, natAbs_signed]
  refine ⟨isFinite_roundRat _ (by positivity), fun hfin => ?_⟩
  simpa using nearestTo_roundRat c (by positivity) hfin

/-- The quotient of two finite values, the divisor not zero (R14). -/
theorem divAt_nearest {a b : F32} (ha : isFinite a = true) (hb : isFinite b = true)
    (hne : scaled b ≠ 0) (d : Nat) (c : F32) :
    (isFinite (divAt d a b) = true ↔
      (scaled a * 2 ^ 149).natAbs < overflowBound * (scaled b).natAbs) ∧
      (isFinite (divAt d a b) = true →
        NearestTo c (divAt d a b) (scaled a * 2 ^ 149) (scaled b)) := by
  have hm : magnitude b ≠ 0 := fun h => hne (scaled_eq_zero_iff.2 h)
  have hpos := Nat.pos_of_ne_zero hm
  rw [divAt_finite ha hb hm, Int.natAbs_mul, natAbs_scaled, natAbs_scaled]
  refine ⟨isFinite_roundRat _ hpos, fun hfin => ?_⟩
  have h := nearestTo_roundRat c hpos hfin
  have hexact : scaled a * 2 ^ 149 = signed (isNeg a) (magnitude a * 2 ^ 149) := by
    rw [signed_mul, ← scaled_eq_signed]
    rfl
  rw [hexact, scaled_eq_signed b]
  cases hnb : isNeg b with
  | false =>
    rw [hnb, Bool.bne_false] at h
    rw [Bool.bne_false, signed_false]
    exact h
  | true =>
    rw [hnb, Bool.bne_true, signed_not] at h
    rw [Bool.bne_true, signed_true]
    simpa only [neg_neg] using h.neg

/-- `ToF32` of an integer (R17). -/
theorem ofInt_nearest (n : Int) (c : F32) :
    (isFinite (ofInt n) = true ↔ n.natAbs * 2 ^ 149 < overflowBound) ∧
      (isFinite (ofInt n) = true → NearestTo c (ofInt n) (n * 2 ^ 149) 1) := by
  refine ⟨?_, fun hfin => ?_⟩
  · rw [← Nat.mul_one overflowBound]
    exact isFinite_roundRat _ Nat.one_pos
  · have h := nearestTo_roundRat c Nat.one_pos hfin
    rw [signed_mul, signed_natAbs] at h
    exact h

/-! ### Signs, infinities and NaNs -/

/-- When a sum of numbers is a NaN (R14, log entry 19). -/
theorem isNaN_addAt_iff {a b : F32} (ha : isNaN a = false) (hb : isNaN b = false) (d : Nat) :
    isNaN (addAt d a b) = true ↔ isInf a = true ∧ isInf b = true ∧ isNeg a ≠ isNeg b := by
  simp only [addAt, ha, hb, Bool.or_self, Bool.false_eq_true, if_false]
  by_cases hia : isInf a = true
  · by_cases hib : isInf b = true ∧ isNeg a ≠ isNeg b
    · simp [hia, hib, isNaN_nan]
    · simp [hia, hib, ha]
  · by_cases hib : isInf b = true
    · simp [hia, hib, hb]
    · rw [if_neg hia, if_neg hib]
      split <;> simp [hia]

/-- When a product of numbers is a NaN. -/
theorem isNaN_mulAt_iff {a b : F32} (ha : isNaN a = false) (hb : isNaN b = false) (d : Nat) :
    isNaN (mulAt d a b) = true ↔
      isInf a = true ∧ isZero b = true ∨ isZero a = true ∧ isInf b = true := by
  have hza := isZero_of_isInf (x := a)
  have hzb := isZero_of_isInf (x := b)
  simp only [mulAt, ha, hb, Bool.or_self, Bool.false_eq_true, if_false]
  by_cases hia : isInf a = true <;> by_cases hib : isInf b = true
  · simp [hia, hib, hza hia, hzb hib]
  · cases hz : isZero b <;> simp [hia, hib, hza hia, isNaN_nan]
  · cases hz : isZero a <;> simp [hia, hib, hzb hib, isNaN_nan]
  · simp [hia, hib]

/-- When a quotient of numbers is a NaN. -/
theorem isNaN_divAt_iff {a b : F32} (ha : isNaN a = false) (hb : isNaN b = false) (d : Nat) :
    isNaN (divAt d a b) = true ↔
      isInf a = true ∧ isInf b = true ∨ isZero a = true ∧ isZero b = true := by
  have hza := isZero_of_isInf (x := a)
  have hzb := isZero_of_isInf (x := b)
  simp only [divAt, ha, hb, Bool.or_self, Bool.false_eq_true, if_false]
  by_cases hia : isInf a = true
  · cases hib : isInf b <;> simp [hia, hza hia, isNaN_nan]
  · by_cases hib : isInf b = true
    · simp [hia, hib, hzb hib]
    · cases hz : isZero b <;> cases hz' : isZero a <;> simp [hia, hib, isNaN_nan]

/-- A product has the sign of its operands' signs, unless it is a NaN (R422). -/
theorem isNeg_mulAt {a b : F32} (ha : isNaN a = false) (hb : isNaN b = false) {d : Nat}
    (h : isNaN (mulAt d a b) = false) : isNeg (mulAt d a b) = (isNeg a != isNeg b) := by
  simp only [mulAt, ha, hb, Bool.or_self, Bool.false_eq_true, if_false] at h ⊢
  split_ifs at h ⊢
  · simp [isNaN_nan] at h
  · exact isNeg_infOf _
  · exact isNeg_roundRat ..

/-- A quotient has the sign of its operands' signs, unless it is a NaN. -/
theorem isNeg_divAt {a b : F32} (ha : isNaN a = false) (hb : isNaN b = false) {d : Nat}
    (h : isNaN (divAt d a b) = false) : isNeg (divAt d a b) = (isNeg a != isNeg b) := by
  simp only [divAt, ha, hb, Bool.or_self, Bool.false_eq_true, if_false] at h ⊢
  split_ifs at h ⊢
  · simp [isNaN_nan] at h
  · exact isNeg_infOf _
  · exact isNeg_zeroOf _
  · simp [isNaN_nan] at h
  · exact isNeg_infOf _
  · exact isNeg_roundRat ..

/-- An infinity gives its sign to its sum with a finite value or with an infinity of the same
sign. -/
theorem isNeg_of_isInf {a b : F32} (ha : isInf a = true)
    (hb : isFinite b = true ∨ isNeg b = isNeg a) : isNeg a = decide (scaled a + scaled b < 0) := by
  have hsize : (scaled b).natAbs < 2 ^ 23 * 2 ^ 254 ∨ isNeg b = isNeg a := by
    rw [natAbs_scaled]
    exact hb.imp_left magnitude_lt_of_isFinite
  have hsign : scaled b = signed (isNeg b) (scaled b).natAbs := by
    rw [natAbs_scaled]
    rfl
  have ha' : scaled a = signed (isNeg a) (2 ^ 23 * 2 ^ 254) := by
    rw [scaled_eq_signed, magnitude_of_isInf ha]
  rw [ha']
  cases hneg : isNeg a with
  | false =>
    rw [signed_false, eq_comm, decide_eq_false_iff_not]
    rcases hsize with hlt | hsame
    · omega
    · rw [hsame, hneg, signed_false] at hsign
      omega
  | true =>
    rw [signed_true, eq_comm, decide_eq_true_iff]
    rcases hsize with hlt | hsame
    · omega
    · rw [hsame, hneg, signed_true] at hsign
      omega

theorem isNeg_addAt {a b : F32} (ha : isNaN a = false) (hb : isNaN b = false) {d : Nat}
    (hne : scaled a + scaled b ≠ 0) (h : isNaN (addAt d a b) = false) :
    isNeg (addAt d a b) = decide (scaled a + scaled b < 0) := by
  simp only [addAt, ha, hb, Bool.or_self, Bool.false_eq_true, if_false] at h ⊢
  split_ifs at h ⊢ with hia hopp hib
  · simp [isNaN_nan] at h
  · refine isNeg_of_isInf hia ?_
    cases hib : isInf b with
    | false => exact .inl (isFinite_of_not hb hib)
    | true =>
      rw [hib, Bool.true_and, Bool.not_eq_true, bne_eq_false_iff_eq] at hopp
      exact .inr hopp.symm
  · rw [Int.add_comm]
    exact isNeg_of_isInf hib (.inl (isFinite_of_not ha (by simpa using hia)))
  · exact isNeg_roundRat ..

/-- A non-zero number over a zero is an infinity. -/
theorem isInf_divAt_zero {a b : F32} (ha : isNaN a = false) (hza : isZero a = false)
    (hzb : isZero b = true) (hb : isNaN b = false) (d : Nat) : isInf (divAt d a b) = true := by
  have hib : isInf b = false := by
    by_contra hib
    simp [isZero_of_isInf (by simpa using hib)] at hzb
  simp [divAt, ha, hb, hib, hza, hzb]

/-- R420: a finite value and its negation sum to +0.0. -/
theorem addAt_fneg {a : F32} (ha : isFinite a = true) (d : Nat) : addAt d a (fneg a) = f0 := by
  rw [addAt_finite ha (by simpa using ha), if_pos (by simp), isNeg_fneg]
  cases isNeg a <;> rfl

end Sys2Proof.Machine

namespace Sys2Proof.Proofs
open Sys2Proof.Machine

/-- Settles O56: the rounded results are nearest, and the corner cases are those of IEEE 754. -/
theorem arithmeticNearest : Obligations.ArithmeticNearest := by
  refine ⟨fun d a b c n ha hb _ => ?_, fun d a b => ⟨fun h => ?_, fun ha hb => ?_, ?_⟩⟩
  · obtain ⟨hadd, haddNear⟩ := addAt_nearest ha hb d c
    obtain ⟨hmul, hmulNear⟩ := mulAt_nearest ha hb d c
    obtain ⟨hofInt, hofIntNear⟩ := ofInt_nearest n c
    exact ⟨hadd, haddNear, hmul, hmulNear, fun hne => divAt_nearest ha hb hne d c, hofInt,
      hofIntNear⟩
  · exact ⟨isNaN_addAt h, isNaN_mulAt h, isNaN_divAt h⟩
  · exact ⟨isNaN_addAt_iff ha hb d, isNaN_mulAt_iff ha hb d, isNaN_divAt_iff ha hb d,
      isNeg_mulAt ha hb, isNeg_divAt ha hb, isNeg_addAt ha hb,
      fun hza hzb => isInf_divAt_zero ha hza hzb hb d⟩
  · exact fun ha => addAt_fneg ha d

end Sys2Proof.Proofs
end

section
/-! Exact results: parameter bytes, draws of `rand`, and the waveshaper. -/
namespace Sys2Proof.Machine

/-! ### Exact results -/

/-- A quotient with at most 24 significant bits is rounded to itself. -/
theorem roundRat_exact (neg : Bool) {num den n e : Nat} (h : 0 < den) (hn : n < 2 ^ 24)
    (he : e ≤ 253) (hnum : num = n * 2 ^ e * den) :
    isFinite (roundRat neg num den) = true ∧ magnitude (roundRat neg num den) = n * 2 ^ e := by
  have hfin : isFinite (roundRat neg num den) = true := by
    rw [isFinite_roundRat neg h, hnum]
    refine Nat.mul_lt_mul_of_pos_right ?_ h
    calc n * 2 ^ e ≤ (2 ^ 24 - 1) * 2 ^ 253 :=
          Nat.mul_le_mul (by omega) (Nat.pow_le_pow_right (by decide) he)
      _ < overflowBound := by decide
  refine ⟨hfin, ?_⟩
  have hdrop : dropBits num den ≤ e := by
    have hlog : Nat.log2 (num / den) < 24 + e := by
      rw [hnum, Nat.mul_div_cancel _ h]
      rcases Nat.eq_zero_or_pos n with rfl | hpos
      · rw [Nat.zero_mul, show Nat.log2 0 = 0 from rfl]
        omega
      · have hne : n * 2 ^ e ≠ 0 := by positivity
        rw [Nat.log2_lt hne, pow_add]
        exact Nat.mul_lt_mul_of_pos_right hn (by positivity)
    rw [dropBits]
    omega
  have hsplit : num = n * 2 ^ (e - dropBits num den) * (den * 2 ^ dropBits num den) := by
    calc num = n * 2 ^ (e - dropBits num den + dropBits num den) * den := by
          rw [Nat.sub_add_cancel hdrop, hnum]
      _ = n * 2 ^ (e - dropBits num den) * (den * 2 ^ dropBits num den) := by
          rw [pow_add]
          ring
  have hsig : significand num den = n * 2 ^ (e - dropBits num den) := by
    calc significand num den
        = nearestEven (n * 2 ^ (e - dropBits num den) * (den * 2 ^ dropBits num den))
            (den * 2 ^ dropBits num den) := by rw [← hsplit, significand]
      _ = n * 2 ^ (e - dropBits num den) := nearestEven_mul _ (by positivity)
  rw [magnitude_roundRat h hfin, hsig, Nat.mul_assoc, ← pow_add, Nat.sub_add_cancel hdrop]

/-- A finite value has at most 24 significant bits. -/
theorem exists_magnitude_eq {x : F32} (h : isFinite x = true) :
    ∃ n e, n < 2 ^ 24 ∧ e ≤ 253 ∧ magnitude x = n * 2 ^ e := by
  have he := expField_lt x
  have hf := fracField_lt x
  simp only [isFinite, bne_iff_ne, ne_eq] at h
  rw [magnitude]
  split
  · exact ⟨fracField x, 0, by omega, by decide, by simp⟩
  · exact ⟨2 ^ 23 + fracField x, expField x - 1, by omega, by omega, rfl⟩

theorem signed_mul_two_pow (neg : Bool) (n e : Nat) :
    signed neg (n * 2 ^ e) = signed neg n * 2 ^ e := by
  rw [signed_mul]
  norm_cast

section
variable {a b c : F32}

theorem addAt_exact (ha : isFinite a = true) (hb : isFinite b = true) {n : Int} {e : Nat}
    (hn : n.natAbs < 2 ^ 24) (he : e ≤ 253) (h : scaled a + scaled b = n * 2 ^ e) (d : Nat) :
    isFinite (addAt d a b) = true ∧ scaled (addAt d a b) = n * 2 ^ e := by
  rw [addAt_finite ha hb]
  split
  · rename_i h0
    exact ⟨isFinite_zeroOf _, by rw [scaled_zeroOf, ← h, h0]⟩
  · have hnat : (scaled a + scaled b).natAbs = n.natAbs * 2 ^ e * 1 := by
      rw [h, Int.natAbs_mul, Int.natAbs_pow, Nat.mul_one]
      rfl
    obtain ⟨hfin, hmag⟩ := roundRat_exact (decide (scaled a + scaled b < 0)) Nat.one_pos hn he hnat
    refine ⟨hfin, ?_⟩
    rw [scaled_eq_signed, isNeg_roundRat, hmag, ← Nat.mul_one (n.natAbs * 2 ^ e), ← hnat,
      signed_natAbs, h]

theorem mulAt_exact (ha : isFinite a = true) (hb : isFinite b = true) {n : Int} {e : Nat}
    (hn : n.natAbs < 2 ^ 24) (he : e ≤ 253) (h : scaled a * scaled b = n * 2 ^ e * 2 ^ 149)
    (d : Nat) :
    isFinite (mulAt d a b) = true ∧ scaled (mulAt d a b) = n * 2 ^ e := by
  rw [mulAt_finite ha hb]
  have hnat : magnitude a * magnitude b = n.natAbs * 2 ^ e * 2 ^ 149 := by
    rw [← natAbs_scaled a, ← natAbs_scaled b, ← Int.natAbs_mul, h, Int.natAbs_mul, Int.natAbs_mul,
      Int.natAbs_pow]
    rfl
  obtain ⟨hfin, hmag⟩ := roundRat_exact (isNeg a != isNeg b) (by positivity) hn he hnat
  refine ⟨hfin, ?_⟩
  rw [scaled_eq_signed, isNeg_roundRat, hmag]
  have hsigned :
      signed (isNeg a != isNeg b) (n.natAbs * 2 ^ e) * 2 ^ 149 = n * 2 ^ e * 2 ^ 149 := by
    rw [← h, scaled_eq_signed a, scaled_eq_signed b, signed_mul_signed, hnat,
      signed_mul_two_pow _ _ 149]
  exact Int.eq_of_mul_eq_mul_right (by positivity) hsigned

/-- A sum whose exact value is a binary32 other than zero is that binary32. -/
theorem addAt_eq (ha : isFinite a = true) (hb : isFinite b = true) (hc : isFinite c = true)
    (h : scaled a + scaled b = scaled c) (hne : scaled c ≠ 0) (d : Nat) : addAt d a b = c := by
  rw [addAt_finite ha hb, h, if_neg hne, scaled_neg_iff hne, natAbs_scaled,
    ← Nat.mul_one (magnitude c)]
  exact roundRat_magnitude hc Nat.one_pos

/-- A product whose exact magnitude is that of a binary32 of its sign is that binary32. -/
theorem mulAt_eq (ha : isFinite a = true) (hb : isFinite b = true) (hc : isFinite c = true)
    (h : magnitude a * magnitude b = magnitude c * 2 ^ 149)
    (hneg : (isNeg a != isNeg b) = isNeg c) (d : Nat) : mulAt d a b = c := by
  rw [mulAt_finite ha hb, h, hneg]
  exact roundRat_magnitude hc (by positivity)

/-- A quotient whose exact magnitude is that of a binary32 of its sign is that binary32. -/
theorem divAt_eq (ha : isFinite a = true) (hb : isFinite b = true) (hc : isFinite c = true)
    (hne : magnitude b ≠ 0) (h : magnitude a * 2 ^ 149 = magnitude c * magnitude b)
    (hneg : (isNeg a != isNeg b) = isNeg c) (d : Nat) : divAt d a b = c := by
  rw [divAt_finite ha hb hne, h, hneg]
  exact roundRat_magnitude hc (Nat.pos_of_ne_zero hne)

end

/-! ### Parameter bytes (R22) -/

theorem paramByte_exact (b : Byte) :
    isFinite (paramByte b) = true ∧ isNeg (paramByte b) = false ∧
      magnitude (paramByte b) = b.toNat * 2 ^ 142 := by
  have hb := b.isLt
  obtain ⟨hfin, hmag⟩ := roundRat_exact false (num := b.toNat * 2 ^ 149) (den := 128)
    (n := b.toNat) (e := 142) (by decide) (by omega) (by decide) (by omega)
  exact ⟨hfin, isNeg_roundRat .., hmag⟩

theorem scaled_paramByte (b : Byte) : scaled (paramByte b) = b.toNat * 2 ^ 142 := by
  obtain ⟨-, hneg, hmag⟩ := paramByte_exact b
  rw [scaled_eq_signed, hneg, hmag, signed_mul_two_pow, signed_false]

/-- Doubling a parameter is exact. -/
theorem mulAt_paramByte_two (b : Byte) (d : Nat) :
    isFinite (mulAt d (paramByte b) f2) = true ∧
      scaled (mulAt d (paramByte b) f2) = b.toNat * 2 ^ 143 := by
  have hb := b.isLt
  refine mulAt_exact (paramByte_exact b).1 (by decide) (by omega) (by decide) ?_ d
  rw [scaled_paramByte, show scaled f2 = 2 ^ 150 by decide]
  omega

/-- `p * 2 - 1` is exact (R22). -/
theorem subAt_double_one {x : F32} (b : Byte) (hx : isFinite x = true)
    (h : scaled x = b.toNat * 2 ^ 143) (d : Nat) :
    isFinite (subAt d x f1) = true ∧
      scaled (subAt d x f1) = ((b.toNat : Int) * 2 - 128) * 2 ^ 142 := by
  have hb := b.isLt
  refine addAt_exact hx (by decide) (by omega) (by decide) ?_ d
  rw [h, show scaled (fneg f1) = -2 ^ 149 by decide]
  omega

/-- A sum with +0.0 leaves a finite value that is not negative as it is. -/
theorem addAt_zero {x : F32} (hx : isFinite x = true) (hneg : isNeg x = false) (d : Nat) :
    addAt d x f0 = x := by
  by_cases h0 : scaled x = 0
  · have hx0 : x = f0 := by
      rw [← roundRat_magnitude hx Nat.one_pos, hneg, scaled_eq_zero_iff.1 h0]
      rfl
    rw [hx0]
    rfl
  · exact addAt_eq hx (by decide) hx (by rw [show scaled f0 = 0 by decide, Int.add_zero]) h0 d

/-! ### Draws of `rand` (R21) -/

/-- Rounding passes no binary32 on the way up. -/
theorem magnitude_roundRat_le {neg : Bool} {num den : Nat} (h : 0 < den)
    (hfin : isFinite (roundRat neg num den) = true) {c : F32} (hle : num ≤ magnitude c * den) :
    magnitude (roundRat neg num den) ≤ magnitude c := by
  obtain ⟨hnear, -⟩ := roundRat_nearest h hfin (c := c) (Int.natAbs_natCast _)
  by_contra hlt
  have hmul : magnitude c * den < magnitude (roundRat neg num den) * den :=
    Nat.mul_lt_mul_of_pos_right (by omega) h
  zify at hmul hle
  omega

/-- Rounding passes no binary32 on the way down. -/
theorem le_magnitude_roundRat {neg : Bool} {num den : Nat} (h : 0 < den)
    (hfin : isFinite (roundRat neg num den) = true) {c : F32} (hle : magnitude c * den ≤ num) :
    magnitude c ≤ magnitude (roundRat neg num den) := by
  obtain ⟨hnear, -⟩ := roundRat_nearest h hfin (c := c) (Int.natAbs_natCast _)
  by_contra hlt
  have hmul : magnitude (roundRat neg num den) * den < magnitude c * den :=
    Nat.mul_lt_mul_of_pos_right (by omega) h
  zify at hmul hle
  omega

/-- `ToF32` of a signed 32-bit word is finite, at most 2^31 in magnitude, and at least 1 where the
word is not zero. -/
theorem ofInt_toInt (w : Word) :
    isFinite (ofInt w.toInt) = true ∧ magnitude (ofInt w.toInt) ≤ 2 ^ 180 ∧
      (w.toInt ≠ 0 → 2 ^ 149 ≤ magnitude (ofInt w.toInt)) := by
  have hlow := w.le_toInt
  have hhigh := w.toInt_lt
  have hfin : isFinite (ofInt w.toInt) = true := by
    rw [(ofInt_nearest _ f0).1, overflowBound]
    omega
  refine ⟨hfin, ?_, fun hne => ?_⟩
  · exact magnitude_roundRat_le Nat.one_pos hfin (c := fNegTwo31)
      (by rw [show magnitude fNegTwo31 = 2 ^ 180 by decide]; omega)
  · exact le_magnitude_roundRat Nat.one_pos hfin (c := f1)
      (by rw [show magnitude f1 = 2 ^ 149 by decide]; omega)

/-- The quotient of a draw: no NaN, at most 1 in magnitude, and no zero where the word is not
zero. -/
theorem divAt_fNegTwo31 (w : Word) (d : Nat) :
    isNaN (divAt d (ofInt w.toInt) fNegTwo31) = false ∧
      (scaled (divAt d (ofInt w.toInt) fNegTwo31)).natAbs ≤ 2 ^ 149 ∧
      (w.toInt ≠ 0 → scaled (divAt d (ofInt w.toInt) fNegTwo31) ≠ 0) := by
  obtain ⟨hfin, hle, hge⟩ := ofInt_toInt w
  have hden : magnitude fNegTwo31 = 2 ^ 180 := by decide
  rw [divAt_finite hfin (by decide) (by rw [hden]; decide), hden, natAbs_scaled]
  simp only [ne_eq, scaled_eq_zero_iff]
  have hfin' : isFinite (roundRat (isNeg (ofInt w.toInt) != isNeg fNegTwo31)
      (magnitude (ofInt w.toInt) * 2 ^ 149) (2 ^ 180)) = true := by
    rw [isFinite_roundRat _ (by positivity), overflowBound]
    omega
  refine ⟨isNaN_roundRat .., ?_, fun hne => ?_⟩
  · exact magnitude_roundRat_le (by positivity) hfin' (c := f1)
      (by rw [show magnitude f1 = 2 ^ 149 by decide]; omega)
  · have hpos := le_magnitude_roundRat (by positivity) hfin' (c := 0x00000001)
      (by rw [show magnitude 0x00000001 = 1 by decide]; have := hge hne; omega)
    rw [show magnitude 0x00000001 = 1 by decide] at hpos
    omega

/-! ### The waveshaper (R19) -/

/-- R19's formula, in the order of its parentheses. -/
theorem waveshape_run (x a : F32) (d : Nat) : waveshape x a d =
    (divAt (d + 6) (mulAt d x a) (addAt (d + 5) (subAt (d + 1) f1 a)
      (mulAt (d + 4) (subAt (d + 3) (mulAt (d + 2) f2 a) f1) (fabs x))), d + 7) := (rfl)

theorem isFinite_fabs {x : F32} (h : isFinite x = true) : isFinite (fabs x) = true := by
  have hmod : (fabs x).toNat = x.toNat % 2 ^ 31 := by
    rw [fabs, BitVec.toNat_and]
    exact Nat.and_two_pow_sub_one_eq_mod x.toNat 31
  have hexp : expField (fabs x) = expField x := by
    rw [expField, expField, hmod]
    omega
  rwa [isFinite, hexp]

/-- Halving a finite value of even magnitude is exact, and keeps its sign. -/
theorem mulAt_fHalf {x : F32} (hx : isFinite x = true) (heven : magnitude x % 2 = 0) (d : Nat) :
    isFinite (mulAt d x fHalf) = true ∧ magnitude (mulAt d x fHalf) = magnitude x / 2 ∧
      isNeg (mulAt d x fHalf) = isNeg x := by
  have hhalf : magnitude fHalf = 2 ^ 148 := by decide
  obtain ⟨n, e, hn, he, hmag⟩ := exists_magnitude_eq hx
  obtain ⟨m, k, hm, hk, hquot⟩ : ∃ m k, m < 2 ^ 24 ∧ k ≤ 253 ∧ magnitude x / 2 = m * 2 ^ k := by
    cases e with
    | zero => exact ⟨n / 2, 0, by omega, by decide, by omega⟩
    | succ e => exact ⟨n, e, hn, by omega, by rw [hmag, pow_succ, ← Nat.mul_assoc]; omega⟩
  rw [mulAt_finite hx (by decide), hhalf, show isNeg fHalf = false by decide, Bool.bne_false]
  obtain ⟨hfin, hres⟩ := roundRat_exact (isNeg x) (num := magnitude x * 2 ^ 148) (den := 2 ^ 149)
    (by positivity) hm hk (by rw [← hquot]; omega)
  exact ⟨hfin, hres.trans hquot.symm, isNeg_roundRat ..⟩

/-- At shape 0.5 the divisor is 0.5 (R19). -/
theorem waveshape_divisor_fHalf {x : F32} (hx : isFinite x = true) (d : Nat) :
    addAt (d + 5) (subAt (d + 1) f1 fHalf)
      (mulAt (d + 4) (subAt (d + 3) (mulAt (d + 2) f2 fHalf) f1) (fabs x)) = fHalf := by
  have hsub : subAt (d + 1) f1 fHalf = fHalf :=
    addAt_eq (by decide) (by decide) (by decide) (by decide) (by decide) _
  have hmul : mulAt (d + 2) f2 fHalf = f1 :=
    mulAt_eq (by decide) (by decide) (by decide) (by decide) (by decide) _
  have hzero : subAt (d + 3) f1 f1 = f0 := addAt_fneg (by decide) _
  obtain ⟨hfin, hprod⟩ := mulAt_exact (a := f0) (n := 0) (e := 0) (by decide)
    (isFinite_fabs hx) (by decide) (by decide) (by rw [show scaled f0 = 0 by decide]; simp) (d + 4)
  rw [hsub, hmul, hzero]
  exact addAt_eq (by decide) hfin (by decide) (by rw [hprod]; simp) (by decide) _

theorem waveshape_fHalf {x : F32} (hx : isFinite x = true) (heven : magnitude x % 2 = 0) (d : Nat) :
    (waveshape x fHalf d).1 = x := by
  obtain ⟨hfin, hmag, hneg⟩ := mulAt_fHalf hx heven d
  rw [waveshape_run, waveshape_divisor_fHalf hx]
  refine divAt_eq hfin (by decide) hx (by decide) ?_ ?_ _
  · rw [hmag, show magnitude fHalf = 2 ^ 148 by decide]
    omega
  · rw [hneg, show isNeg fHalf = false by decide, Bool.bne_false]

/-- At 1 and -1 the divisor is the shape (R19): `(1 - p) + (2 * p - 1)`, every part of it exact. -/
theorem waveshape_divisor_one {b : Byte} (h1 : 1 ≤ b.toNat) (d : Nat) :
    addAt (d + 5) (subAt (d + 1) f1 (paramByte b))
      (mulAt (d + 4) (subAt (d + 3) (mulAt (d + 2) f2 (paramByte b)) f1) f1) = paramByte b := by
  have hb := b.isLt
  have hp := scaled_paramByte b
  have hone : scaled f1 = 2 ^ 149 := by decide
  obtain ⟨hfin, -, -⟩ := paramByte_exact b
  obtain ⟨hfinRest, hrest⟩ := addAt_exact (a := f1) (b := fneg (paramByte b))
    (n := 128 - (b.toNat : Int)) (e := 142) (by decide) (by simpa using hfin) (by omega) (by decide)
    (by rw [scaled_fneg, hone, hp]; omega) (d + 1)
  obtain ⟨hfinDouble, hdouble⟩ := mulAt_exact (a := f2) (b := paramByte b) (n := b.toNat) (e := 143)
    (by decide) hfin (by omega) (by decide)
    (by rw [hp, show scaled f2 = 2 ^ 150 by decide]; omega) (d + 2)
  obtain ⟨hfinSigned, hsigned⟩ := subAt_double_one b hfinDouble hdouble (d + 3)
  obtain ⟨hfinProd, hprod⟩ := mulAt_exact (b := f1) (n := (b.toNat : Int) * 2 - 128) (e := 142)
    hfinSigned (by decide) (by omega) (by decide) (by rw [hsigned, hone]) (d + 4)
  refine addAt_eq hfinRest hfinProd hfin ?_ (by rw [hp]; omega) _
  rw [hrest, hprod, hp]
  omega

/-- A value of magnitude 1 is a fixed point of every shape from 1 to 127 (R19). -/
theorem waveshape_fixed {x : F32} (hx : isFinite x = true) (hmag : magnitude x = 2 ^ 149)
    (habs : fabs x = f1) {b : Byte} (h1 : 1 ≤ b.toNat) (d : Nat) :
    (waveshape x (paramByte b) d).1 = x := by
  have hb := b.isLt
  obtain ⟨hfin, hneg, hp⟩ := paramByte_exact b
  obtain ⟨hfinProd, hprod⟩ := roundRat_exact (isNeg x)
    (num := magnitude x * magnitude (paramByte b)) (den := 2 ^ 149) (n := b.toNat)
    (e := 142) (by positivity) (by omega) (by decide)
    (by rw [hmag, hp]; omega)
  rw [waveshape_run, habs, waveshape_divisor_one h1, mulAt_finite hx hfin, hneg, Bool.bne_false]
  refine divAt_eq hfinProd hfin hx (by rw [hp]; omega) ?_ ?_ _
  · rw [hprod, hmag, hp]
    omega
  · rw [isNeg_roundRat, hneg, Bool.bne_false]

end Sys2Proof.Machine

namespace Sys2Proof.Proofs
open Sys2Proof.Machine

/-- Settles O57: rounding a byte over 128, its double, and that less 1 is exact. -/
theorem parameterExact : Obligations.ParameterExact := by
  intro b d
  obtain ⟨hfin, hneg, -⟩ := paramByte_exact b
  obtain ⟨hfin2, hdouble⟩ := mulAt_paramByte_two b d
  obtain ⟨-, hsigned⟩ := subAt_double_one b hfin2 hdouble (d + 1)
  refine ⟨?_, addAt_zero hfin hneg d, ?_⟩
  · rw [scaled_paramByte]
    omega
  · rw [hsigned]
    omega

/-- Settles O58, by the bounds rounding keeps on a quotient by -2^31. -/
theorem randDraw : Obligations.RandDraw := by
  intro s
  obtain ⟨hnan, hle, hne⟩ := divAt_fNegTwo31 (s.randSeed * 16007) s.draws
  refine ⟨rfl, ?_, ?_, ?_, fun hodd => ⟨getLsbD_zero_draw hodd, ?_⟩⟩
  · rw [BitVec.toNat_mul]
    rfl
  · rw [fle, hnan, show isNaN fNeg1 = false by decide, show scaled fNeg1 = -2 ^ 149 by decide]
    simp only [Bool.not_false, Bool.and_self, Bool.true_and, decide_eq_true_eq]
    omega
  · rw [fle, hnan, show isNaN f1 = false by decide, show scaled f1 = 2 ^ 149 by decide]
    simp only [Bool.not_false, Bool.and_self, Bool.true_and, decide_eq_true_eq]
    omega
  · have hseed : (s.randSeed * 16007).toInt ≠ 0 := fun h0 => by
      have hodd' := getLsbD_zero_draw hodd
      rw [BitVec.eq_of_toInt_eq (y := 0#32) h0] at hodd'
      cases hodd'
    have hr := hne hseed
    rw [flt, flt, hnan, show isNaN f0 = false by decide, show scaled f0 = 0 by decide]
    simp only [Bool.not_false, Bool.and_self, Bool.true_and, ne_eq, decide_eq_decide]
    omega

/-- Settles O59: at the shapes named every operation of the formula is exact. -/
theorem waveshape : Obligations.Waveshape :=
  ⟨waveshape_run, fun _ d hx heven => waveshape_fHalf hx heven d, fun _ d h1 _ =>
    ⟨waveshape_fixed (by decide) (by decide) (by decide) h1 d,
      waveshape_fixed (by decide) (by decide) (by decide) h1 d⟩⟩

end Sys2Proof.Proofs
end

section
/-! What a command can write: the elementary writes each opcode has, and that a handler makes no
others. -/
namespace Sys2Proof.Machine

/-! ### Elementary writes -/

/-- One write of a command with opcode `op`. Every command writes the cursors, the parameters, the
stack and the words of its own unit; everything else belongs to the opcodes named. -/
inductive Write (op : Nat) (s : State) : State → Prop
  | registers (cc vc : Nat) (params : Vector F32 6) (stk : List F32) (draws : Nat) :
      Write op s { s with cc := cc, vc := vc, params := params, stk := stk, draws := draws }
  | ownWord {key : Nat} (x : F32) (own : key / 16 = s.ui) : Write op s (writeUnit s s.vi key x)
  | port (v : Fin 32) {u k : Nat} (x : F32) (send : op = 23) (unit : u < 63) (port : k < 8) :
      Write op s (writePort s v u k x)
  | seed (seed : Word) (noise : op = 25) : Write op s { s with randSeed := seed }
  | delayMemory (lines : List DelayLine) (dl : Nat) (delay : op = 17) :
      Write op s { s with lines := lines, dl := dl }
  | bus (outputs : Vector F32 8) (sink : op = 20 ∨ op = 21 ∨ op = 22 ∨ op = 29) :
      Write op s { s with outputs := outputs }
  | time (time : Int) (speed : op = 19) : Write op s { s with time := time }
  | sync (syncBuffer : List F32) (syncPos : Nat) (sync : op = 30) :
      Write op s { s with syncBuffer := syncBuffer, syncPos := syncPos }

/-- Any number of writes of a command with opcode `op`. -/
abbrev Writes (op : Nat) : State → State → Prop := Relation.ReflTransGen (Write op)

/-- However the handler ends, it made only writes that opcode `op` has. -/
def Confined {α : Type} (op : Nat) (m : M α) : Prop := Keeps (Writes op) m

variable {α β : Type} {op : Nat} {s t : State}

theorem Write.draws (d : Nat) : Write op s { s with draws := d } := .registers _ _ _ _ d
theorem Write.stk (stk : List F32) : Write op s { s with stk := stk } := .registers _ _ _ stk _

theorem Write.ownState {k : Nat} (hk : k < 8) (x : F32) :
    Write op s (writeState s s.vi s.ui k x) :=
  .ownWord x (by rw [stateKey]; omega)

theorem Write.ownPort {k : Nat} (hk : k < 8) (x : F32) : Write op s (writePort s s.vi s.ui k x) :=
  .ownWord x (by rw [portKey]; omega)

/-! ### The shared operations -/

namespace Confined

theorem bind {m : M α} {f : α → M β} (hm : Confined op m) (hf : ∀ a, Confined op (f a)) :
    Confined op (m >>= f) :=
  Keeps.bind .trans hm hf

theorem ite {c : Prop} [Decidable c] {m m' : M α} (h : Confined op m) (h' : Confined op m') :
    Confined op (if c then m else m') := by
  split
  · exact h
  · exact h'

/-- A part that only reads. -/
theorem read {f : State → α} : Confined op (fun s => .ok (f s) s : M α) := fun _ => .refl

theorem pure {a : α} : Confined op (Pure.pure a : M α) := read
theorem readAll : Confined op readAll := read
theorem top {k : Nat} : Confined op (top k) := read
theorem param {k : Nat} : Confined op (param k) := read
theorem ownState {k : Nat} : Confined op (ownState k) := read
theorem ownPort {k : Nat} : Confined op (ownPort k) := read

/-- A part that goes on with the state as it is, or raises a fault. -/
theorem check {c : State → Prop} [DecidablePred c] {f : State → α} {e : RenderError} :
    Confined op (fun s => if c s then .ok (f s) s else .error e s : M α) := by
  intro s
  by_cases h : c s <;> simp [h, Relation.ReflTransGen.refl]

theorem need {n : Nat} : Confined op (need n) := check
theorem truncI {x : F32} : Confined op (truncI x) := check
theorem roundI {x : F32} : Confined op (roundI x) := check

theorem raiseIf {bad : Bool} {e : RenderError} : Confined op (raiseIf bad e) := by
  cases bad <;> exact fun _ => .refl

theorem delayTime {i : Nat} : Confined op (delayTime i) := by
  intro s
  rw [Machine.delayTime]
  cases s.patch.delayTimes[i]? <;> exact .refl

theorem change {f : State → State} (h : ∀ s, Write op s (f s)) : Confined op (change f) :=
  fun s => .single (h s)

theorem num {m : Num α} : Confined op (num m) := fun _ => .single (.draws _)
theorem drop {n : Nat} : Confined op (drop n) := fun _ => .single (.stk _)
theorem setTop {k : Nat} {v : F32} : Confined op (setTop k v) := fun _ => .single (.stk _)

theorem push {v : F32} : Confined op (push v) := by
  intro s
  rw [push_run]
  by_cases h : s.stk.length < stackCap s
  · rw [if_pos h]
    exact .single (.stk _)
  · rw [if_neg h]

theorem setOwnState {k : Nat} {x : F32} (hk : k < 8) : Confined op (setOwnState k x) :=
  fun _ => .single (.ownState hk x)
theorem setOwnPort {k : Nat} {x : F32} (hk : k < 8) : Confined op (setOwnPort k x) :=
  fun _ => .single (.ownPort hk x)

theorem portAdd {v : Fin 32} {u k : Nat} {x amt : F32} (hop : op = 23) (hu : u < 63) (hk : k < 8) :
    Confined op (portAdd v u k x amt) :=
  fun _ => .tail (.single (.draws _)) (.port v _ hop hu hk)

theorem writeOutput {c : Nat} {x : F32} (hop : op = 20 ∨ op = 21 ∨ op = 22 ∨ op = 29) :
    Confined op (Machine.change fun s => writeOutput s c x) :=
  change fun _ => .bus _ hop

theorem busAdd {c : Nat} {g x : F32} (hop : op = 20 ∨ op = 21 ∨ op = 22 ∨ op = 29) :
    Confined op (busAdd c g x) :=
  fun _ => .tail (.single (.draws _)) (.bus _ hop)

theorem rand (hop : op = 25) : Confined op rand :=
  fun _ => .tail (.single (.seed _ hop)) (.draws _)

theorem syncWrite {v : F32} (hop : op = 30) : Confined op (syncWrite v) := by
  intro s
  rw [syncWrite_run]
  by_cases h : s.syncPos < syncCap s
  · rw [if_pos h]
    exact .single (.sync _ _ hop)
  · rw [if_neg h]

theorem takeLine (hop : op = 17) : Confined op takeLine := by
  intro s
  rw [Machine.takeLine]
  by_cases h : s.dl < s.lines.length
  · rw [if_pos h]
    exact .single (.delayMemory _ _ hop)
  · rw [if_neg h]

theorem writeLine {d : Nat} {f : State → DelayLine} (hop : op = 17) :
    Confined op (Machine.change fun s => writeLine s d (f s)) :=
  change fun _ => .delayMemory _ _ hop

theorem forChannels {body : Nat → M Unit} {stereo : Bool} (h : ∀ i < 2, Confined op (body i)) :
    Confined op (forChannels stereo body) :=
  .bind (h 0 (by decide)) fun _ => .ite (h 1 (by decide)) .pure

theorem pushTwice {stereo : Bool} {v : F32} : Confined op (pushTwice stereo v) :=
  .bind .push fun _ => .ite .push .pure

theorem mapChannels {stereo : Bool} {f : F32 → Num F32} : Confined op (mapChannels stereo f) :=
  .bind .need fun _ => .forChannels fun _ _ => .bind .top fun _ => .bind .num fun _ => .setTop

/-! ### The parts of the handlers -/

theorem combineInto {f : F32 → F32 → Num F32} {i j : Nat} : Confined op (combineInto f i j) :=
  .bind .top fun _ => .bind .top fun _ => .bind .num fun _ => .setTop

theorem combineTop {f : F32 → F32 → Num F32} {stereo : Bool} : Confined op (combineTop f stereo) :=
  .ite (.bind .need fun _ => .bind .combineInto fun _ => .combineInto)
    (.bind .need fun _ => .combineInto)

theorem combineNext {f : F32 → F32 → Num F32} {stereo : Bool} :
    Confined op (combineNext f stereo) :=
  .ite (.bind .need fun _ => .bind .combineInto fun _ => .bind .combineInto fun _ => .drop)
    (.bind .need fun _ => .bind .combineInto fun _ => .drop)

theorem swap {i j : Nat} : Confined op (swap i j) :=
  .bind .top fun _ => .bind .top fun _ => .bind .setTop fun _ => .setTop

theorem noiseChannel (hop : op = 25) : Confined op noiseChannel :=
  .bind (.rand hop) fun _ => .bind .param fun _ => .bind .param fun _ => .bind .num fun _ => .push

theorem holdChannel {freq2 : F32} {i : Nat} (hi : i < 2) : Confined op (holdChannel freq2 i) :=
  .bind .ownState fun _ => .bind .ownState fun _ => .bind .top fun _ => .bind .num fun _ =>
    .bind .num fun _ => .bind (.setOwnState (by omega)) fun _ =>
      .bind (.setOwnState (by omega)) fun _ => .bind .ownState fun _ => .setTop

theorem filterChannel {flags : Byte} {freq2 res : F32} {i : Nat} (hi : i < 2) :
    Confined op (filterChannel flags freq2 res i) :=
  .bind .top fun _ => .bind .ownState fun _ => .bind .ownState fun _ => .bind .num fun _ =>
    .bind (.setOwnState (by omega)) fun _ => .bind (.setOwnState (by omega)) fun _ =>
      .bind .num fun _ => .setTop

/-- One sink's adds to the bus, a channel of the stack to a channel of the bus. -/
theorem busAdds {stereo : Bool} {base : Nat → Nat} {g : F32}
    (hop : op = 20 ∨ op = 21 ∨ op = 22 ∨ op = 29) :
    Confined op (Machine.forChannels stereo fun i => do
      let x ← Machine.top i
      Machine.busAdd (base i) g x) :=
  .forChannels fun _ _ => .bind .top fun _ => .busAdd hop

/-- The two gains of `pan`, after the mono form's duplicate (R485). -/
theorem panGains {p : F32} : Confined op (do
    Machine.need 2
    let l ← Machine.top 0
    let l' ← Machine.num (fmul l p)
    Machine.setTop 0 l'
    let r ← Machine.top 1
    let r' ← Machine.num do fmul r (← fsub f1 p)
    Machine.setTop 1 r') :=
  .bind .need fun _ => .bind .top fun _ => .bind .num fun _ => .bind .setTop fun _ =>
    .bind .top fun _ => .bind .num fun _ => .setTop

/-- What follows a send target may use where the target lies (R520). -/
theorem sendTarget_bind {address : Half} {stereo : Bool} {k : Fin 32 × Nat × Nat → M Unit}
    (h : ∀ target, target.2.1 < 63 → (∀ i < ch stereo, target.2.2 + i < 8) →
      Confined op (k target)) :
    Confined op (sendTarget address stereo >>= k) := by
  intro s
  cases hr : resolveSend address stereo s.vi with
  | error e =>
    rw [bind_error (show sendTarget address stereo s = .error e s by rw [sendTarget, hr])]
  | ok target =>
    rw [bind_ok (show sendTarget address stereo s = .ok target s by rw [sendTarget, hr])]
    obtain ⟨hu, hk⟩ := resolveSend_ok hr
    exact h target hu hk s

/-- The sends of the channels into ports that lie in the target unit. -/
theorem portAdds {stereo : Bool} {target : Fin 32 × Nat × Nat} {amt : F32} (hop : op = 23)
    (hu : target.2.1 < 63) (hk : ∀ i < ch stereo, target.2.2 + i < 8) :
    Confined op (Machine.forChannels stereo fun i => do
      let x ← Machine.top i
      Machine.portAdd target.1 target.2.1 (target.2.2 + i) x amt) := by
  have hadd (i : Nat) (hi : i < ch stereo) : Confined op (do
      let x ← Machine.top i
      Machine.portAdd target.1 target.2.1 (target.2.2 + i) x amt) :=
    .bind .top fun _ => .portAdd hop hu (hk i hi)
  cases stereo
  · rw [forChannels_false]
    exact hadd 0 (by decide)
  · exact .forChannels hadd

theorem gateAmp {gateBits : Half} {phase : F32} {i : Nat} (hi : i < 2) :
    Confined op (gateAmp gateBits phase i) :=
  .bind .num fun _ => .bind .truncI fun _ => .bind .ownState fun _ => .bind .num fun _ =>
    .bind (.setOwnState (by omega)) fun _ => .pure

/-- At most four partials run, so the accumulators stay in the unit's state slots (R560). -/
theorem oscPartials {flags : Byte} {gateBits : Half} {i : Nat} (hi : i < 2) (n : Nat) :
    ∀ (j : Nat) (detune phaseParam output : F32), j + n ≤ 4 →
      Confined op (oscPartials flags gateBits i n j detune phaseParam output) := by
  induction n with
  | zero => exact fun _ _ _ _ _ => .pure
  | succ n ih =>
    intro j detune phaseParam output hj
    exact .bind .readAll fun _ => .bind .num fun _ => .bind .ownState fun _ => .bind .num fun _ =>
      .bind (.setOwnState (by omega)) fun _ => .bind .num fun _ =>
        .bind (.ite (.gateAmp hi) .num) fun _ => .bind .num fun _ => .bind .num fun _ =>
          .bind .num fun _ => ih (j + 1) _ _ _ (by omega)

theorem oscChannel {flags : Byte} {gateBits : Half} {detune : F32} {i : Nat} (hi : i < 2) :
    Confined op (oscChannel flags gateBits detune i) := by
  have hpartials : 0 + (unisonOf flags + 1) ≤ 4 := by
    rw [unisonOf]
    omega
  exact .bind .param fun _ => .bind (.oscPartials hi _ 0 detune _ f0 hpartials) fun _ => .push

theorem delayLine {pitched : Bool} {pg2 fb damp x out : F32} {index : Nat} (hop : op = 17) :
    Confined op (delayLine pitched pg2 fb damp x out index) :=
  .bind (.takeLine hop) fun _ => .bind .delayTime fun _ => .bind .ownPort fun _ =>
    .bind .readAll fun _ => .bind .num fun _ => .bind .roundI fun _ => .bind .num fun _ =>
      .bind .num fun _ => .bind (.writeLine hop) fun _ => .pure

theorem delayLines {pitched : Bool} {pg2 fb damp x : F32} (hop : op = 17) (n : Nat) :
    ∀ (out : F32) (index : Nat), Confined op (delayLines pitched pg2 fb damp x n out index) := by
  induction n with
  | zero => exact fun _ _ => .pure
  | succ n ih => exact fun _ index => .bind (.delayLine hop) fun out' => ih out' (index + 1)

theorem dcBlock {line : Nat} {out : F32} (hop : op = 17) : Confined op (dcBlock line out) :=
  .bind .readAll fun _ => .bind .num fun _ => .bind (.writeLine hop) fun _ => .pure

theorem delayChannel {pitched : Bool} {pg2 dry fb damp : F32} {n index i : Nat} (hop : op = 17) :
    Confined op (delayChannel pitched pg2 dry fb damp n index i) :=
  .bind .top fun _ => .bind .num fun _ => .bind (.delayLines hop n _ _) fun _ =>
    .bind .readAll fun _ => .bind (.dcBlock hop) fun _ => .setTop

end Confined

/-! ### The handlers -/

/-- The instruction runs as a unit whose transformables have ports of their own, and whose handler
makes only writes that its opcode has. -/
def WritesAsUnit (i : Instr) : Prop :=
  ∃ (ts : List Byte) (extras : Nat) (handler : M Unit),
    (∀ s, exec i s = runUnit ts extras handler s) ∧ ts.length ≤ 8 ∧
      Confined (opcodeOf i.command) handler

theorem WritesAsUnit.intro {i : Instr} {handler : M Unit} (op : Nat) (ts : List Byte) (extras : Nat)
    (run : ∀ s, exec i s = runUnit ts extras handler s) (confined : Confined op handler)
    (opcode : opcodeOf i.command = op := by simp [Instr.command])
    (few : ts.length ≤ 8 := by simp) : WritesAsUnit i :=
  ⟨ts, extras, handler, run, few, opcode ▸ confined⟩

theorem writesAsUnit_of_ne_advance {i : Instr} (h : opcodeOf i.command ≠ 0) : WritesAsUnit i := by
  cases i with
  | advance b => exact absurd (opcodeOf_commandByte (by decide) b) h
  | add b => exact .intro 1 [] 0 (fun _ => rfl) .combineTop
  | addp b => exact .intro 2 [] 0 (fun _ => rfl) .combineNext
  | mul b => exact .intro 5 [] 0 (fun _ => rfl) .combineTop
  | mulp b => exact .intro 6 [] 0 (fun _ => rfl) .combineNext
  | pop b => exact .intro 3 [] 0 (fun _ => rfl) <| .bind .need fun _ => .drop
  | push b =>
    exact .intro 7 [] 0 (fun _ => rfl) <| .ite
      (.bind .need fun _ => .bind .top fun _ => .bind .top fun _ => .bind .push fun _ => .push)
      (.bind .need fun _ => .bind .top fun _ => .push)
  | xch b =>
    exact .intro 8 [] 0 (fun _ => rfl) <| .ite
      (.bind .need fun _ => .bind .swap fun _ => .swap) (.bind .need fun _ => .swap)
  | loadnote b =>
    exact .intro 4 [] 0 (fun _ => rfl) <|
      .bind .readAll fun _ => .bind .num fun _ => .pushTwice
  | loadval b t0 =>
    exact .intro 27 [t0] 0 (fun _ => rfl) <| .bind .param fun _ => .bind .num fun _ => .pushTwice
  | noise b t0 t1 =>
    exact .intro 25 [t0, t1] 0 (fun _ => rfl) <| .forChannels fun _ _ => .noiseChannel rfl
  | receive b =>
    exact .intro 28 [] 0 (fun _ => rfl) <| .ite
      (.bind .ownPort fun _ => .bind .ownPort fun _ => .bind (.setOwnPort (by decide)) fun _ =>
        .bind (.setOwnPort (by decide)) fun _ => .bind .push fun _ => .push)
      (.bind .ownPort fun _ => .bind (.setOwnPort (by decide)) fun _ => .push)
  | input b x0 =>
    exact .intro 29 [] 1 (fun _ => rfl) <|
      .bind .raiseIf fun _ => .bind .readAll fun _ => .ite
        (.bind (.writeOutput (by decide)) fun _ => .bind (.writeOutput (by decide)) fun _ =>
          .bind .push fun _ => .push)
        (.bind (.writeOutput (by decide)) fun _ => .push)
  | out b t0 =>
    exact .intro 20 [t0] 0 (fun _ => rfl) <|
      .bind .param fun _ => .bind .need fun _ => .bind (.busAdds (base := id) (by decide)) fun _ =>
        .drop
  | outaux b t0 t1 =>
    exact .intro 21 [t0, t1] 0 (fun _ => rfl) <|
      .bind .param fun _ => .bind .param fun _ => .bind .need fun _ =>
        .bind (.busAdds (base := id) (by decide)) fun _ => .bind (.busAdds (by decide)) fun _ =>
          .drop
  | aux b t0 x0 =>
    exact .intro 22 [t0] 1 (fun _ => rfl) <|
      .bind .need fun _ => .bind .raiseIf fun _ => .bind .param fun _ =>
        .bind (.busAdds (by decide)) fun _ => .drop
  | gain b t0 => exact .intro 12 [t0] 0 (fun _ => rfl) <| .bind .param fun _ => .mapChannels
  | invgain b t0 => exact .intro 13 [t0] 0 (fun _ => rfl) <| .bind .param fun _ => .mapChannels
  | distort b t0 => exact .intro 9 [t0] 0 (fun _ => rfl) <| .bind .param fun _ => .mapChannels
  | crush b t0 =>
    exact .intro 11 [t0] 0 (fun _ => rfl) <|
      .bind .param fun _ => .bind .readAll fun _ => .mapChannels
  | clip b => exact .intro 15 [] 0 (fun _ => rfl) .mapChannels
  | pan b t0 =>
    exact .intro 16 [t0] 0 (fun _ => rfl) <| .bind .param fun _ => .ite .panGains
      (.bind .need fun _ => .bind .top fun _ => .bind .push fun _ => .panGains)
  | hold b t0 =>
    exact .intro 10 [t0] 0 (fun _ => rfl) <|
      .bind .need fun _ => .bind .param fun _ => .bind .num fun _ =>
        .forChannels fun _ hi => .holdChannel hi
  | filter b t0 t1 x0 =>
    exact .intro 14 [t0, t1] 1 (fun _ => rfl) <|
      .bind .need fun _ => .bind .param fun _ => .bind .num fun _ => .bind .param fun _ =>
        .forChannels fun _ hi => .filterChannel hi
  | envelope b t0 t1 t2 t3 t4 =>
    exact .intro 24 [t0, t1, t2, t3, t4] 0 (fun _ => rfl) <|
      .bind .readAll fun _ => .bind .ownState fun _ => .bind .ownState fun _ => .bind .num fun _ =>
        .bind (.setOwnState (by decide)) fun _ => .bind (.setOwnState (by decide)) fun _ =>
          .forChannels fun _ _ => .bind .num fun _ => .push
  | compressor b t0 t1 t2 t3 t4 =>
    exact .intro 18 [t0, t1, t2, t3, t4] 0 (fun _ => rfl) <|
      .bind .need fun _ => .bind .readAll fun _ => .bind .top fun _ => .bind .top fun _ =>
        .bind .num fun _ => .bind .ownState fun _ => .bind .num fun _ =>
          .bind (.setOwnState (by decide)) fun _ => .bind .num fun _ => .pushTwice
  | speed b =>
    exact .intro 19 [] 0 (fun _ => rfl) <|
      .bind .need fun _ => .bind .top fun _ => .bind .drop fun _ => .bind .ownState fun _ =>
        .bind .num fun _ => .bind .num fun _ => .bind .truncI fun _ =>
          .bind (.change fun _ => .time _ rfl) fun _ => .bind .num fun _ =>
            .setOwnState (by decide)
  | sync b =>
    exact .intro 30 [] 0 (fun _ => rfl) <|
      .bind .need fun _ => .bind .readAll fun _ => .bind .top fun _ => .ite (.syncWrite rfl) .pure
  | send b t0 a =>
    exact .intro 23 [t0] 2 (fun _ => rfl) <|
      .bind .need fun _ => .sendTarget_bind fun _ hu hk => .bind .param fun _ => .bind .num fun _ =>
        .bind (.portAdds rfl hu hk) fun _ => .ite .drop .pure
  | delay b t0 t1 t2 t3 t4 x0 x1 =>
    exact .intro 17 [t0, t1, t2, t3, t4] 2 (fun _ => rfl) <|
      .bind .need fun _ => .bind .raiseIf fun _ => .bind .param fun _ => .bind .num fun _ =>
        .bind .param fun _ => .bind .param fun _ => .bind .param fun _ =>
          .bind (.forChannels fun _ _ => .delayChannel rfl) fun _ => .setOwnPort (by decide)
  | oscillator b t0 t1 t2 t3 t4 t5 x0 g =>
    exact .intro 26 [t0, t1, t2, t3, t4, t5] (if g.isSome then 3 else 1) (fun _ => rfl) <|
      .bind .param fun _ => .bind .num fun _ => .forChannels fun _ hi => .oscChannel hi

end Sys2Proof.Machine
end

section
/-! What one step of a running core writes: the cases of a command, of the loop test and of the end
of a sample step. -/
namespace Sys2Proof.Machine

/-! ### One command -/

/-- How a command ends: as a unit, with a fault, or as an `advance`. None of these ends writes
memory, the bus, a buffer or a clock. -/
inductive CommandEnd (s : State) : State → Prop
  | unit : CommandEnd s { s with ui := s.ui + 1 }
  | fault (e : RenderError) (site : Option Nat) : CommandEnd s (faultEntry e site s)
  | advance (vr ui cc vc cci vci : Nat) (vi : Fin 32) :
      CommandEnd s
        { s with vr := vr, ui := ui, cc := cc, vc := vc, cci := cci, vci := vci, vi := vi }

/-- What a command writes before it ends: a unit beyond the 63 of its voice writes no voice memory
(R405). -/
structure CommandWrites (op : Nat) (s t : State) : Prop where
  writes : Writes op s t
  beyond : 63 ≤ s.ui → t.voices = s.voices

/-- What no elementary write changes, no sequence of them changes. -/
theorem Writes.eq_of {γ : Type} {f : State → γ} {op : Nat} {s t : State} (h : Writes op s t)
    (hf : ∀ {s t}, Write op s t → f t = f s) : f t = f s := by
  induction h with
  | refl => rfl
  | tail _ hwrite ih => exact (hf hwrite).trans ih

theorem Writes.vi {op : Nat} {s t : State} (h : Writes op s t) : t.vi = s.vi :=
  h.eq_of fun h => by cases h <;> rfl

theorem Writes.ui {op : Nat} {s t : State} (h : Writes op s t) : t.ui = s.ui :=
  h.eq_of fun h => by cases h <;> rfl

theorem CommandWrites.refl (op : Nat) (s : State) : CommandWrites op s s := ⟨.refl, fun _ => rfl⟩

theorem CommandWrites.of_below {op : Nat} {s t : State} (hu : s.ui < 63) (h : Writes op s t) :
    CommandWrites op s t :=
  ⟨h, fun hbeyond => by omega⟩

/-- The fetch moves the command cursor alone (R402). -/
theorem CommandWrites.of_fetched {op : Nat} {s t : State} (h : CommandWrites op (fetched s) t) :
    CommandWrites op s t :=
  ⟨.head (.registers (s.cc + 1) s.vc s.params s.stk s.draws) h.writes, h.beyond⟩

/-- The transformables clear ports of the executing unit (R406). -/
theorem Writes.materialiseFrom (op : Nat) (ts : List Byte) : ∀ (i : Nat) (s : State),
    i + ts.length ≤ 8 → Writes op s (materialiseFrom i ts s) := by
  induction ts with
  | nil => exact fun _ _ _ => .refl
  | cons b bs ih =>
    intro i s hi
    rw [List.length_cons] at hi
    exact ((Relation.ReflTransGen.single (.registers s.cc s.vc _ s.stk _)).tail
      (.ownPort (by omega) f0)).trans (ih (i + 1) (materialiseOne i b s) (by omega))

theorem Writes.operandsRead (op : Nat) {ts : List Byte} (n : Nat) (s : State)
    (hts : ts.length ≤ 8) : Writes op s (operandsRead ts n s) :=
  (Writes.materialiseFrom op ts 0 s (by omega)).tail (.registers _ _ _ _ _)

theorem runUnit_writes {op : Nat} {ts : List Byte} {n : Nat} {handler : M Unit} {s t : State}
    (hts : ts.length ≤ 8) (hc : Confined op handler) (ht : runUnit ts n handler s = .next t) :
    ∃ u, CommandWrites op s u ∧ CommandEnd u t := by
  have hread := Writes.operandsRead op n s hts
  have hhandler := hc (operandsRead ts n s)
  rcases runUnit_cases ts n handler s with
    ⟨-, hout⟩ | ⟨hu, u, hok, hout⟩ | ⟨hu, e, u, herr, hout⟩
  · cases hout.symm.trans ht
    exact ⟨s, .refl _ _, .fault _ _⟩
  · cases hout.symm.trans ht
    rw [hok] at hhandler
    exact ⟨u, .of_below hu (hread.trans hhandler), .unit⟩
  · cases hout.symm.trans ht
    rw [herr] at hhandler
    exact ⟨u, .of_below hu (hread.trans hhandler), .fault _ _⟩

theorem execAdvance_end {s t : State} (b : Bool) (ht : execAdvance b s = .next t) :
    CommandEnd s t := by
  cases ht
  split_ifs
  · exact .advance (s.vr - 1) s.ui s.cc s.vc s.cci s.vci s.vi
  · exact .advance (s.vr - 1) 0 s.cci s.vci s.cci s.vci (s.vi + 1)
  · exact .advance (s.vr - 1) 0 s.cc s.vc s.cc s.vc (s.vi + 1)

theorem exec_writes {i : Instr} {s t : State} (ht : exec i s = .next t) :
    ∃ u, CommandWrites (opcodeOf i.command) s u ∧ CommandEnd u t := by
  by_cases hop : opcodeOf i.command = 0
  · cases i
    case advance b => exact ⟨s, .refl _ _, execAdvance_end b ht⟩
    all_goals simp [Instr.command] at hop
  · obtain ⟨ts, n, handler, hrun, hts, hc⟩ := writesAsUnit_of_ne_advance hop
    exact runUnit_writes hts hc ((hrun s).symm.trans ht)

/-- A truncated operand group writes what its transformables do (R405, R701). -/
theorem runTruncated_writes (op opcode : Nat) (vs : List Byte) (s : State) :
    ∃ u, CommandWrites op s u ∧ CommandEnd u (runTruncated opcode vs s) := by
  have hcount : transformCount opcode ≤ 8 := by
    simp only [transformCount]
    split <;> decide
  rw [runTruncated]
  split_ifs with hu
  · exact ⟨s, .refl _ _, .fault _ _⟩
  · exact ⟨s, .refl _ _, .fault _ _⟩
  · exact ⟨_, .of_below (by omega) (.operandsRead op _ s (by simp; omega)), .fault _ _⟩

/-- All a command writes: where the fetch finds none, nothing; otherwise what its opcode has. -/
theorem executeOne_writes {s t : State} (ht : executeOne s = .next t) :
    CommandEnd s t ∨ ∃ c u, s.patch.commands[s.cc]? = some c ∧ CommandWrites (opcodeOf c) s u ∧
      CommandEnd u t := by
  rw [executeOne] at ht
  cases hc : s.patch.commands[s.cc]? with
  | none =>
    rw [hc] at ht
    cases ht
    exact .inl (.fault _ _)
  | some c =>
    suffices h : ∃ u, CommandWrites (opcodeOf c) (fetched s) u ∧ CommandEnd u t by
      obtain ⟨u, hu, hend⟩ := h
      exact .inr ⟨c, u, rfl, hu.of_fetched, hend⟩
    simp only [hc] at ht
    cases hdec : decode c (valuesAhead s) with
    | instr i =>
      simp only [hdec] at ht
      obtain ⟨rfl, -, -⟩ := decode_eq_instr hdec
      exact exec_writes ht
    | illegal c' =>
      simp only [hdec] at ht
      cases ht
      exact ⟨_, .refl _ _, .fault _ _⟩
    | ended opcode =>
      simp only [hdec] at ht
      cases ht
      exact runTruncated_writes _ _ _ _

/-- The command at the cursor has opcode `op`. -/
def Fetches (s : State) (op : Nat) : Prop :=
  ∃ c, s.patch.commands[s.cc]? = some c ∧ opcodeOf c = op

/-- A component of the state that only commands with an opcode in `P` write: a command that changes
it has such an opcode. -/
theorem opcode_of_executeOne_ne {γ : Type} {f : State → γ} {P : Nat → Prop} {s t : State}
    (ht : executeOne s = .next t) (hne : f t ≠ f s)
    (hwrite : ∀ {op s t}, Write op s t → f t ≠ f s → P op)
    (hend : ∀ {s t}, CommandEnd s t → f t = f s := by intro _ _ h; cases h <;> rfl) :
    ∃ c, s.patch.commands[s.cc]? = some c ∧ P (opcodeOf c) := by
  obtain h | ⟨c, u, hc, hw, h⟩ := executeOne_writes ht
  · exact absurd (hend h) hne
  · refine ⟨c, hc, by_contra fun hP => hne ?_⟩
    rw [hend h]
    exact hw.writes.eq_of fun hst => by_contra fun hch => hP (hwrite hst hch)

/-! ### The loop test and the end of a sample step -/

/-- All the loop test can do: return, start a sample step with or without a sync record, or fault on
the record (R400, R401). -/
theorem loopStep_cases (s : State) :
    loopStep s = renderReturn s ∨ loopStep s = resetSequencer s ∨
    (∃ v, loopStep s = { resetSequencer s with
      syncBuffer := s.syncBuffer.set s.syncPos v
      syncPos := s.syncPos + 1
      syncs := s.syncs + 1 }) ∨
    ∃ e, loopStep s = faultEntry e none (resetSequencer s) := by
  rw [loopStep, syncRecord, readAll_bind]
  by_cases hgo : loopGoesOn s = true
  · rw [if_pos hgo]
    split
    · rw [syncWrite_bind]
      split
      · exact .inr (.inr (.inl ⟨_, rfl⟩))
      · exact .inr (.inr (.inr ⟨_, rfl⟩))
    · exact .inr (.inl rfl)
  · rw [if_neg hgo]
    exact .inl rfl

/-- All the end of a sample step can do (R410). -/
theorem endOfStep_cases (s : State) :
    (s.stk.length ≠ 4 ∧ ∃ e, endOfStep s = faultEntry e none s) ∨
    (s.stk.length = 4 ∧ endOfStep s = emitSample s) := by
  rw [endOfStep]
  split
  · exact .inl ⟨by omega, _, rfl⟩
  · split
    · exact .inl ⟨by omega, _, rfl⟩
    · exact .inr ⟨by omega, rfl⟩

theorem setIfInBounds_eq_set {α : Type} {n i : Nat} (v : Vector α n) (x : α) (h : i < n) :
    v.setIfInBounds i x = v.set i x h :=
  Vector.ext fun j hj => by rw [Vector.getElem_setIfInBounds hj, Vector.getElem_set]

/-- A step of a running core is a loop test, the end of a sample step, or a command. -/
theorem runningStep_cases {s t : State} (hrun : s.phase ≠ .idle) (ht : step s = .next t) :
    (s.phase = .loopTest ∧ t = loopStep s) ∨
    (s.phase = .sampleStep ∧ s.vr = 0 ∧ t = endOfStep s) ∨
    (s.phase = .sampleStep ∧ s.vr ≠ 0 ∧ executeOne s = .next t) := by
  rw [step] at ht
  cases hphase : s.phase with
  | idle => exact absurd hphase hrun
  | loopTest =>
    rw [hphase] at ht
    cases ht
    exact .inl ⟨rfl, rfl⟩
  | sampleStep =>
    simp only [hphase] at ht
    split at ht
    · rename_i hvr
      cases ht
      exact .inr (.inl ⟨rfl, hvr, rfl⟩)
    · rename_i hvr
      exact .inr (.inr ⟨rfl, hvr, ht⟩)

end Sys2Proof.Machine
end

section
/-! Who writes voice memory (UnitMemoryPrivate). -/
namespace Sys2Proof.Machine

theorem readWord_writeWord_other {m : Vector Voice 32} (h : VoicesWf m) {v w : Fin 32} {key c : Nat}
    (x : F32) (hne : w ≠ v ∨ c ≠ key) : readWord (writeWord m v key x) w c = readWord m w c := by
  rcases hne with hw | hc
  · exact readWord_writeWord_otherVoice m key c x hw
  · exact readWord_writeWord_otherKey w x hc (h v)

/-- What the writes of a command with opcode `op` in unit `ui` of voice `vi` keep of voice memory:
the canonical form, every note and release flag, and the words of the other units, but for the ports
where the command is a `send`. -/
structure VoicesKept (op : Nat) (vi : Fin 32) (ui : Nat) (m m' : Vector Voice 32) : Prop where
  wf : VoicesWf m'
  note : ∀ v, (m'.get v).note = (m.get v).note
  release : ∀ v, (m'.get v).release = (m.get v).release
  word : ∀ v key, (v ≠ vi ∨ key / 16 ≠ ui) → (op = 23 → key % 16 < 8) →
    readWord m' v key = readWord m v key

section
variable {op : Nat} {vi : Fin 32} {ui : Nat} {m m' m'' : Vector Voice 32}

theorem VoicesKept.of_eq (hwf : VoicesWf m) (h : m' = m) : VoicesKept op vi ui m m' := by
  subst h
  exact ⟨hwf, fun _ => rfl, fun _ => rfl, fun _ _ _ _ => rfl⟩

theorem VoicesKept.trans (h : VoicesKept op vi ui m m') (h' : VoicesKept op vi ui m' m'') :
    VoicesKept op vi ui m m'' where
  wf := h'.wf
  note := fun v => (h'.note v).trans (h.note v)
  release := fun v => (h'.release v).trans (h.release v)
  word := fun v key hother hport => (h'.word v key hother hport).trans (h.word v key hother hport)

/-- A write of one word that is the executing unit's, or a port where the command is a `send`. -/
theorem VoicesKept.writeWord (hwf : VoicesWf m) (v : Fin 32) {key : Nat} (x : F32)
    (hkey : key < unitWords) (h : (v = vi ∧ key / 16 = ui) ∨ (op = 23 ∧ 8 ≤ key % 16)) :
    VoicesKept op vi ui m (writeWord m v key x) where
  wf := hwf.write v x hkey
  note := fun _ => writeWord_note ..
  release := fun _ => writeWord_release ..
  word := fun w c hother hport => by
    refine readWord_writeWord_other hwf x ?_
    rcases h with ⟨rfl, hown⟩ | ⟨hop, hk⟩
    · exact hother.imp id fun hc heq => hc (heq ▸ hown)
    · have := hport hop
      exact .inr (by omega)

/-- A state slot of another unit. -/
theorem VoicesKept.state (h : VoicesKept op vi ui m m') {v : Fin 32} {u k : Nat} (hk : k < 8)
    (hother : v ≠ vi ∨ u ≠ ui) : readWord m' v (stateKey u k) = readWord m v (stateKey u k) := by
  have hunit : stateKey u k / 16 = u := by rw [stateKey]; omega
  exact h.word v _ (by rwa [hunit]) fun _ => by rw [stateKey]; omega

/-- A port of another unit, where the command is no `send`. -/
theorem VoicesKept.port (h : VoicesKept op vi ui m m') (hop : op ≠ 23) {v : Fin 32} {u k : Nat}
    (hk : k < 8) (hother : v ≠ vi ∨ u ≠ ui) :
    readWord m' v (portKey u k) = readWord m v (portKey u k) := by
  have hunit : portKey u k / 16 = u := by rw [portKey]; omega
  exact h.word v _ (by rwa [hunit]) fun hsend => absurd hsend hop

end

variable {op : Nat} {s t : State}

theorem Write.voicesKept (h : Write op s t) (hwf : VoicesWf s.voices) (hu : s.ui < 63) :
    VoicesKept op s.vi s.ui s.voices t.voices := by
  cases h with
  | ownWord x own => exact .writeWord hwf s.vi x (by rw [unitWords]; omega) (.inl ⟨rfl, own⟩)
  | port v x send unit port =>
    exact .writeWord hwf v x (portKey_lt unit port) (.inr ⟨send, by rw [portKey]; omega⟩)
  | _ => exact .of_eq hwf rfl

theorem Writes.voicesKept (h : Writes op s t) (hwf : VoicesWf s.voices) (hu : s.ui < 63) :
    VoicesKept op s.vi s.ui s.voices t.voices := by
  induction h with
  | refl => exact .of_eq hwf rfl
  | tail hwrites hwrite ih =>
    have hvi := Writes.vi hwrites
    have hui := Writes.ui hwrites
    have hlast := hwrite.voicesKept ih.wf (hui ▸ hu)
    rw [hvi, hui] at hlast
    exact ih.trans hlast

theorem CommandWrites.voicesKept (h : CommandWrites op s t) (hwf : VoicesWf s.voices) :
    VoicesKept op s.vi s.ui s.voices t.voices := by
  rcases Nat.lt_or_ge s.ui 63 with hu | hu
  · exact h.writes.voicesKept hwf hu
  · exact .of_eq hwf (h.beyond hu)

theorem CommandEnd.voices (h : CommandEnd s t) : t.voices = s.voices := by
  cases h <;> rfl

theorem loopStep_voices (s : State) : (loopStep s).voices = s.voices := by
  obtain h | h | ⟨v, h⟩ | ⟨e, h⟩ := loopStep_cases s <;> rw [h] <;> rfl

theorem endOfStep_voices (s : State) : (endOfStep s).voices = s.voices := by
  obtain ⟨-, e, h⟩ | ⟨-, h⟩ := endOfStep_cases s <;> rw [h] <;> rfl

/-- Every step of a running core writes voice memory as a command of some opcode does; it is that of
`send` only where the step runs one. -/
theorem runningStep_voicesKept (hwf : VoicesWf s.voices) (hrun : s.phase ≠ .idle)
    (ht : step s = .next t) : ∃ op, VoicesKept op s.vi s.ui s.voices t.voices ∧
      (op = 23 → s.phase = .sampleStep ∧ s.vr ≠ 0 ∧ Fetches s 23) := by
  obtain ⟨-, rfl⟩ | ⟨-, -, rfl⟩ | ⟨hphase, hvr, hone⟩ := runningStep_cases hrun ht
  · exact ⟨0, .of_eq hwf (loopStep_voices s), by simp⟩
  · exact ⟨0, .of_eq hwf (endOfStep_voices s), by simp⟩
  · obtain h | ⟨c, u, hc, hw, h⟩ := executeOne_writes hone
    · exact ⟨0, .of_eq hwf h.voices, by simp⟩
    · exact ⟨opcodeOf c, h.voices ▸ hw.voicesKept hwf, fun hop => ⟨hphase, hvr, c, hc, hop⟩⟩

end Sys2Proof.Machine

namespace Sys2Proof.Proofs
open Sys2Proof.Machine

/-- Settles O53, by what the writes of a command keep of voice memory. -/
theorem unitMemoryPrivate : Obligations.UnitMemoryPrivate := by
  intro s t hwf hrun ht
  obtain ⟨op, hkept, hsend⟩ := runningStep_voicesKept hwf.voices hrun ht
  refine ⟨fun v u k _ hk hother => hkept.state hk hother, fun v u k _ hk hother hne => ?_,
    fun v => ⟨hkept.note v, hkept.release v⟩⟩
  by_cases hop : op = 23
  · exact hsend hop
  · exact absurd (hkept.port hop hk hother) hne

end Sys2Proof.Proofs
end

section
/-! Who writes the shared state (SharedStateWriters). -/
namespace Sys2Proof.Machine

variable {op : Nat} {s t : State}

/-- The state no command writes; the rest is blanked out. -/
def commandFrame (s : State) : State :=
  { handlerFrame s with
    cc := 0
    vc := 0
    cci := 0
    vci := 0
    vi := 0
    vr := 0
    ui := 0
    poisoned := false
    phase := .idle
    result := none }

theorem executeOne_frame (ht : executeOne s = .next t) : commandFrame t = commandFrame s := by
  by_contra hne
  obtain ⟨-, -, hfalse⟩ := opcode_of_executeOne_ne (P := fun _ => False) ht hne
    fun h hne => by cases h <;> exact hne rfl
  exact hfalse

theorem fetches_noise (ht : executeOne s = .next t) (hne : t.randSeed ≠ s.randSeed) :
    Fetches s 25 :=
  opcode_of_executeOne_ne (P := (· = 25)) ht hne fun h hne => by
    cases h with
    | seed _ noise => exact noise
    | _ => exact absurd rfl hne

theorem fetches_delay (ht : executeOne s = .next t) (hne : (t.lines, t.dl) ≠ (s.lines, s.dl)) :
    Fetches s 17 :=
  opcode_of_executeOne_ne (f := fun s => (s.lines, s.dl)) (P := (· = 17)) ht hne fun h hne => by
    cases h with
    | delayMemory _ _ delay => exact delay
    | _ => exact absurd rfl hne

theorem fetches_sink (ht : executeOne s = .next t) (hne : t.outputs ≠ s.outputs) :
    Fetches s 20 ∨ Fetches s 21 ∨ Fetches s 22 ∨ Fetches s 29 := by
  obtain ⟨c, hc, hop⟩ := opcode_of_executeOne_ne
    (P := fun op => op = 20 ∨ op = 21 ∨ op = 22 ∨ op = 29) ht hne fun h hne => by
      cases h with
      | bus _ sink => exact sink
      | _ => exact absurd rfl hne
  exact hop.imp (⟨c, hc, ·⟩) (.imp (⟨c, hc, ·⟩) (.imp (⟨c, hc, ·⟩) (⟨c, hc, ·⟩)))

theorem fetches_speed (ht : executeOne s = .next t) (hne : t.time ≠ s.time) : Fetches s 19 :=
  opcode_of_executeOne_ne (P := (· = 19)) ht hne fun h hne => by
    cases h with
    | time _ speed => exact speed
    | _ => exact absurd rfl hne

theorem fetches_sync (ht : executeOne s = .next t)
    (hne : (t.syncBuffer, t.syncPos) ≠ (s.syncBuffer, s.syncPos)) : Fetches s 30 :=
  opcode_of_executeOne_ne (f := fun s => (s.syncBuffer, s.syncPos)) (P := (· = 30)) ht hne
    fun h hne => by
      cases h with
      | sync _ _ sync => exact sync
      | _ => exact absurd rfl hne

end Sys2Proof.Machine

namespace Sys2Proof.Proofs
open Sys2Proof.Machine

/-- Settles O54: the loop test and the end of a sample step write what R400, R401 and R410 give, and
of the commands only those with the opcodes named write each component. -/
theorem sharedStateWriters : Obligations.SharedStateWriters := by
  intro s t hrun ht runs ends
  obtain ⟨hphase, rfl⟩ | ⟨hphase, hvr, rfl⟩ | ⟨hphase, hvr, hone⟩ := runningStep_cases hrun ht
  · obtain h | h | ⟨v, h⟩ | ⟨e, h⟩ := loopStep_cases s <;>
      simp [h, ends, hphase, renderReturn, resetSequencer]
  · obtain ⟨hdepth, e, h⟩ | ⟨hdepth, h⟩ := endOfStep_cases s
    · simp [h, ends, hphase, hvr, hdepth]
    · simp [h, ends, hphase, hvr, hdepth, emitSample, readOutput, setIfInBounds_eq_set]
  · have hruns {op : Nat} (h : Fetches s op) : runs op := ⟨hphase, hvr, h⟩
    have hends : ¬ ends := by simp [ends, hvr]
    have hframe := executeOne_frame hone
    simp only [commandFrame, handlerFrame, State.mk.injEq, true_and, and_true] at hframe
    obtain ⟨hcfg, hpatch, hglobal, hmaxtime, hsamples, hsyncs, hbufPos, -, -, hbuffer, hqueue⟩ :=
      hframe
    exact ⟨hpatch, hqueue, hcfg, hmaxtime, fun h => hruns (fetches_noise hone h),
      fun _ => ⟨hglobal, hsamples, hbufPos, hbuffer⟩, fun h => absurd h hends,
      fun h => hruns (fetches_delay hone (by simp [h])),
      fun h => .inl (hruns (fetches_delay hone (by simp [h]))),
      fun h => (fetches_sink hone h).imp hruns (.imp hruns (.imp hruns (.inl ∘ hruns))),
      fun h => .inl (hruns (fetches_speed hone h)),
      fun h => .inl (hruns (fetches_sync hone (by simpa [imp_iff_not_or] using h))),
      fun h => absurd hsyncs h⟩

end Sys2Proof.Proofs
end

section
/-! What the decoder answers (30_encoding.md R300 to R313): it reads back what the encoder wrote, and what
it refuses is illegal or incomplete. -/
namespace Sys2Proof
open Machine (groupLength)

/-! ### Instructions -/

/-- The decoder reads an instruction back, whatever value bytes follow its operand group. -/
theorem decode_command_operands {i : Instr} (hwf : i.wellFormed = true) (rest : List Byte) :
    decode i.command (i.operands ++ rest) = .instr i := by
  cases i with
  | oscillator b t0 t1 t2 t3 t4 t5 flags gate =>
    have hgate : gateFlag flags = gate.isSome := (eq_of_beq hwf).symm
    cases gate with
    | none =>
      rw [Option.isSome_none] at hgate
      simp [decode, Instr.command, Instr.operands, hgate]
    | some mask =>
      rw [Option.isSome_some] at hgate
      simp [decode, Instr.command, Instr.operands, hgate]
  | _ => simp [decode, Instr.command, Instr.operands]

theorem opcodeOf_command_le (i : Instr) : opcodeOf i.command ≤ 30 := by
  cases i <;> simp [Instr.command]

/-- The operand group of an instruction has the length that its opcode, and for the oscillator its
flags byte, gives (R313), whatever follows it. -/
theorem groupLength_operands {i : Instr} (hwf : i.wellFormed = true) (rest : List Byte) :
    groupLength (opcodeOf i.command) (i.operands ++ rest) = i.operands.length := by
  cases i with
  | oscillator b t0 t1 t2 t3 t4 t5 flags gate =>
    have hgate : gateFlag flags = gate.isSome := (eq_of_beq hwf).symm
    cases gate <;>
      simp [groupLength, transformCount, extraCount, Instr.command, Instr.operands, hgate]
  | _ => simp [groupLength, transformCount, extraCount, Instr.command, Instr.operands]

/-- An instruction is answered only for a legal opcode with a complete operand group. -/
theorem groupLength_le_of_decode {c : Byte} {vs : List Byte} {i : Instr}
    (h : decode c vs = .instr i) :
    opcodeOf c ≤ 30 ∧ groupLength (opcodeOf c) vs ≤ vs.length := by
  obtain ⟨rfl, ⟨rest, rfl⟩, hwf⟩ := decode_eq_instr h
  refine ⟨opcodeOf_command_le i, ?_⟩
  rw [groupLength_operands hwf, List.length_append]
  exact Nat.le_add_right ..

/-! ### Refusals -/

theorem decode_eq_illegal {c c' : Byte} {vs : List Byte} (h : decode c vs = .illegal c') :
    c' = c ∧ 31 ≤ opcodeOf c := by
  simp only [decode] at h
  split at h
  case h_27 =>
    split at h
    · split at h <;> cases h
    · cases h
  case h_32 =>
    cases h
    exact ⟨rfl, by grind⟩
  all_goals
    try split at h
    all_goals cases h

theorem length_lt_succ_iff {n : Nat} {vs : List Byte} :
    vs.length < n + 1 ↔ ∀ v tail, vs = v :: tail → tail.length < n := by
  cases vs <;> simp

/-- The gate bytes only add to an operand group (R313). -/
theorem lt_groupLength {n op : Nat} (h : n < transformCount op + extraCount op) (vs : List Byte) :
    n < groupLength op vs :=
  Nat.lt_add_right _ h

/-- A legal opcode is refused only when the value stream does not hold its operand group. -/
theorem decode_eq_ended {c : Byte} {op : Nat} {vs : List Byte} (h : decode c vs = .ended op) :
    op = opcodeOf c ∧ opcodeOf c ≤ 30 ∧ vs.length < groupLength (opcodeOf c) vs := by
  simp only [decode] at h
  split at h
  -- the oscillator, whose flags byte asks for two gate bytes that are not there (R306)
  case' h_27 hop =>
    split at h
    case' h_1 =>
      split at h
      case h_3 rest _ _ hgate hshort =>
        cases h
        have hlen : rest.length < 2 := by
          match rest with
          | [] | [_] => simp
          | _ :: _ :: _ => exact (hshort _ _ _ rfl).elim
        refine ⟨hop.symm, by omega, ?_⟩
        simp [hop, groupLength, transformCount, extraCount, hgate]
        omega
      all_goals cases h
  all_goals try split at h
  all_goals cases h
  -- a stream without the fixed part of the group of its opcode
  all_goals
    rename_i hop _ hshort
    refine ⟨hop.symm, by omega, lt_groupLength ?_ vs⟩
    simp only [hop, transformCount, extraCount, Nat.reduceAdd, length_lt_succ_iff]
    intros
    subst_vars
    exfalso
    apply hshort
    rfl

end Sys2Proof

namespace Sys2Proof.Proofs
open Sys2Proof.Machine

/-- Settles O1, by the constructors of the instruction. -/
theorem decodeEncode : Obligations.DecodeEncode :=
  fun _ rest hwf => decode_command_operands hwf rest

/-- Settles O2: what the decoder read is written with the bytes it was read from. -/
theorem encodeDecode : Obligations.EncodeDecode := by
  intro c vs i h
  obtain ⟨hcommand, ⟨rest, hrest⟩, hwf⟩ := decode_eq_instr h
  exact ⟨hwf, hcommand.symm, rest, hrest.symm⟩

/-- Settles O3: the three answers of the decoder exclude each other, and so do what they say of the
opcode and of the value stream. -/
theorem decodeRefusal : Obligations.DecodeRefusal := by
  intro c vs
  cases h : decode c vs with
  | instr i =>
    obtain ⟨hop, hlen⟩ := groupLength_le_of_decode h
    simp only [reduceCtorEq, false_iff]
    omega
  | illegal c' =>
    obtain ⟨rfl, hop⟩ := decode_eq_illegal h
    simp only [reduceCtorEq, true_iff, false_iff]
    omega
  | ended op =>
    obtain ⟨rfl, hop, hlen⟩ := decode_eq_ended h
    simp only [reduceCtorEq, true_iff, false_iff]
    omega

/-- Settles O4, by running the decoder on the ten words. -/
theorem decodeExamples : Obligations.DecodeExamples := by
  unfold Obligations.DecodeExamples
  decide

end Sys2Proof.Proofs
end

section
/-! Reading an operand group: what materialisation leaves in the parameters and in voice memory (R406), and
a group that the value stream ends inside of (R405, R303). -/
namespace Sys2Proof.Machine

/-! ### One transformable -/

theorem materialiseOne_params (i : Nat) (b : Byte) (s : State) :
    (materialiseOne i b s).params =
      s.params.setIfInBounds i (addAt s.draws (paramByte b) (readPort s s.vi s.ui i)) := rfl

theorem readParam_materialiseOne_same {i : Nat} (hi : i < 6) (b : Byte) (s : State) :
    readParam (materialiseOne i b s) i =
      addAt s.draws (paramByte b) (readPort s s.vi s.ui i) := by
  rw [readParam, materialiseOne_params, Vector.getElem?_setIfInBounds_self_of_lt hi,
    Option.getD_some]

theorem readParam_materialiseOne_other {i j : Nat} (hj : j ≠ i) (b : Byte) (s : State) :
    readParam (materialiseOne i b s) j = readParam s j := by
  rw [readParam, materialiseOne_params, Vector.getElem?_setIfInBounds_ne hj.symm, readParam]

variable {s : State}

theorem readPort_materialiseOne_same (i : Nat) (b : Byte)
    (h : Memory.wf unitWords (s.voices.get s.vi).units = true) :
    readPort (materialiseOne i b s) s.vi s.ui i = f0 :=
  readWord_writeWord_same _ _ h

theorem readUnit_materialiseOne_other {i : Nat} (b : Byte) {v : Fin 32} {key : Nat}
    (h : Memory.wf unitWords (s.voices.get s.vi).units = true)
    (hkey : v = s.vi → key ≠ portKey s.ui i) :
    readUnit (materialiseOne i b s) v key = readUnit s v key := by
  by_cases hv : v = s.vi
  · exact readWord_writeWord_otherKey v f0 (hkey hv) h
  · exact readWord_writeWord_otherVoice _ _ _ _ hv

theorem wf_materialiseOne {i : Nat} (b : Byte) (hu : s.ui < 63) (hi : i < 8)
    (h : Memory.wf unitWords (s.voices.get s.vi).units = true) :
    Memory.wf unitWords ((materialiseOne i b s).voices.get s.vi).units = true :=
  wf_writeWord f0 (portKey_lt hu hi) h

/-! ### The transformables from number `k` on -/

/-- Parameters outside the range of the transformables keep their values. -/
theorem readParam_materialiseFrom_other {j : Nat} : ∀ (ts : List Byte) (k : Nat) (s : State),
    j < k ∨ k + ts.length ≤ j → readParam (materialiseFrom k ts s) j = readParam s j
  | [], _, _, _ => rfl
  | b :: bs, k, s, hj => by
    rw [List.length_cons] at hj
    rw [materialiseFrom, readParam_materialiseFrom_other bs _ _ (by omega),
      readParam_materialiseOne_other (by omega)]

/-- Words other than the ports of the transformables keep their values. -/
theorem readUnit_materialiseFrom_other {v : Fin 32} {key : Nat} :
    ∀ (ts : List Byte) (k : Nat) (s : State), s.ui < 63 → k + ts.length ≤ 8 →
      Memory.wf unitWords (s.voices.get s.vi).units = true →
      (v = s.vi → ∀ i, k ≤ i → i < k + ts.length → key ≠ portKey s.ui i) →
      readUnit (materialiseFrom k ts s) v key = readUnit s v key
  | [], _, _, _, _, _, _ => rfl
  | b :: bs, k, s, hu, hk, h, hkey => by
    rw [List.length_cons] at hk hkey
    rw [materialiseFrom,
      readUnit_materialiseFrom_other bs (k + 1) (materialiseOne k b s) hu (by omega)
        (wf_materialiseOne b hu (by omega) h)
        (fun hv i hi hlt => hkey hv i (by omega) (by omega)),
      readUnit_materialiseOne_other b h (fun hv => hkey hv k (Nat.le_refl k) (by omega))]

theorem readPort_materialiseFrom_other {ts : List Byte} {k j : Nat} (hu : s.ui < 63)
    (hk : k + ts.length ≤ 8) (h : Memory.wf unitWords (s.voices.get s.vi).units = true)
    (hj : j < k) : readPort (materialiseFrom k ts s) s.vi s.ui j = readPort s s.vi s.ui j :=
  readUnit_materialiseFrom_other ts k s hu hk h fun _ i hi hlt heq => by
    have := ((portKey_inj (by omega) (by omega)).1 heq).2
    omega

/-- Transformable `j` takes its byte over 128 plus its port, and clears the port (R406). -/
theorem materialiseFrom_transformable {ts : List Byte} {k j : Nat} {b : Byte} (hu : s.ui < 63)
    (hk : k + ts.length ≤ 6) (h : Memory.wf unitWords (s.voices.get s.vi).units = true)
    (hb : ts[j]? = some b) :
    readParam (materialiseFrom k ts s) (k + j) =
        addAt (s.draws + j) (paramByte b) (readPort s s.vi s.ui (k + j)) ∧
      readPort (materialiseFrom k ts s) s.vi s.ui (k + j) = f0 := by
  induction ts generalizing k j s with
  | nil => simp at hb
  | cons t ts ih =>
    rw [List.length_cons] at hk
    have hwf := wf_materialiseOne t hu (by omega : k < 8) h
    rw [materialiseFrom]
    cases j with
    | zero =>
      obtain rfl : t = b := by simpa using hb
      simp only [Nat.add_zero]
      constructor
      · rw [readParam_materialiseFrom_other _ _ _ (by omega),
          readParam_materialiseOne_same (by omega)]
      · have hport := readPort_materialiseFrom_other (s := materialiseOne k t s) (ts := ts) hu
          (by omega) hwf (Nat.lt_succ_self k)
        rw [materialiseOne_vi, materialiseOne_ui, readPort_materialiseOne_same k t h] at hport
        exact hport
    | succ j =>
      obtain ⟨hparam, hport⟩ := ih (s := materialiseOne k t s) (k := k + 1) hu (by omega) hwf hb
      have hkey : portKey s.ui (k + 1 + j) ≠ portKey s.ui k := by
        simp only [portKey]
        omega
      rw [materialiseOne_draws, materialiseOne_vi, materialiseOne_ui, readPort,
        readUnit_materialiseOne_other t h (fun _ => hkey)] at hparam
      rw [materialiseOne_vi, materialiseOne_ui] at hport
      have hshift (n : Nat) : n + (j + 1) = n + 1 + j := by omega
      rw [hshift, hshift]
      exact ⟨hparam, hport⟩

/-! ### A truncated operand group -/

/-- Beyond the 63 units of a voice the unit check comes first (R405). -/
theorem runTruncated_full (op : Nat) (vs : List Byte) (hu : 63 ≤ s.ui) :
    runTruncated op vs s = faultEntry (.renderFault .unitOverflow) (commandSite s) s :=
  if_pos hu

/-- With too few bytes for the transformables nothing is read (R405). -/
theorem runTruncated_short {op : Nat} {vs : List Byte} (hu : s.ui < 63)
    (h : vs.length < transformCount op) :
    runTruncated op vs s = faultEntry .valueStreamEnded (commandSite s) s := by
  rw [runTruncated, if_neg (Nat.not_le.2 hu), if_pos h]

/-- The transformables are read, and the extra bytes that are there (R303, R701). -/
theorem runTruncated_enough {op : Nat} {vs : List Byte} (hu : s.ui < 63)
    (h : transformCount op ≤ vs.length) :
    runTruncated op vs s = faultEntry .valueStreamEnded (commandSite s)
      (operandsRead (vs.take (transformCount op)) (vs.length - transformCount op) s) := by
  rw [runTruncated, if_neg (Nat.not_le.2 hu), if_neg (Nat.not_lt.2 h)]

/-- A command that the decoder answers `ended` for runs as a unit with a truncated operand group. -/
theorem step_of_ended {c : Byte} {op : Nat} (hphase : s.phase = .sampleStep) (hvr : s.vr ≠ 0)
    (hc : s.patch.commands[s.cc]? = some c) (hdec : decode c (valuesAhead s) = .ended op) :
    step s = .next (runTruncated op (valuesAhead s) (fetched s)) := by
  simp only [step, hphase, hvr, if_false, executeOne, hc, hdec]
  rfl

end Sys2Proof.Machine

namespace Sys2Proof.Proofs
open Sys2Proof.Machine

/-- Settles O7: the decoder answers `ended` (DecodeRefusal), and the clauses are the cases of a unit
with a truncated operand group. -/
theorem valueStreamFaults : Obligations.ValueStreamFaults := by
  intro s c hphase hvr hc hop hlen
  obtain ⟨-, hended⟩ := decodeRefusal c (valuesAhead s)
  rw [step_of_ended hphase hvr hc (hended.2 ⟨hop, hlen⟩)]
  exact ⟨fun hu => congrArg _ (runTruncated_full _ _ hu),
    fun hu hshort => congrArg _ (runTruncated_short hu hshort),
    fun hu henough => congrArg _ (runTruncated_enough hu henough)⟩

/-- Settles O9: the transformables are read one by one, and of the rest only the value cursor
moves. -/
theorem materialiseEffect : Obligations.MaterialiseEffect := by
  intro ts n s hts hu hwf m
  refine ⟨fun i b hb => ?_, fun v key hkey => ?_, fun v => ?_, fun i hi => ?_,
    operandsRead_frame ts n s⟩
  · have h := materialiseFrom_transformable hu (by omega : 0 + ts.length ≤ 6) hwf hb
    rwa [Nat.zero_add] at h
  · exact readUnit_materialiseFrom_other ts 0 s hu (by omega) hwf
      fun hv i _ hi => hkey hv i (by omega)
  · exact ⟨operandsRead_note ts n s v, operandsRead_release ts n s v⟩
  · exact readParam_materialiseFrom_other ts 0 s (.inr (by omega))

end Sys2Proof.Proofs
end

section
/-! One command of a sample step: what a fetch answers (R402, R403), the cases of `advance` (R404),
and the work a command leaves (R411). -/
namespace Sys2Proof

theorem eq_advance_of_opcode_zero {i : Instr} (h : opcodeOf i.command = 0) :
    ∃ b, i = .advance b := by
  cases i
  case advance b => exact ⟨b, rfl⟩
  all_goals simp [Instr.command] at h

theorem decode_of_decodeTableWord {nbits w : Nat} {i : Instr}
    (h : decodeTableWord nbits w = some i) :
    decode (tableByte nbits w 0) (tableOperands nbits w) = .instr i := by
  rw [decodeTableWord] at h
  split at h
  · rename_i hdec
    cases h
    exact hdec
  · cases h

end Sys2Proof

namespace Sys2Proof.Machine

/-! ### The fetch -/

section
variable {s : State}

theorem step_of_instr {c : Byte} {i : Instr} (hphase : s.phase = .sampleStep) (hvr : s.vr ≠ 0)
    (hc : s.patch.commands[s.cc]? = some c) (hdec : decode c (valuesAhead s) = .instr i) :
    step s = exec i (fetched s) := by
  simp only [step, hphase, hvr, if_false, executeOne, hc, hdec]

theorem step_of_illegal {c c' : Byte} (hphase : s.phase = .sampleStep) (hvr : s.vr ≠ 0)
    (hc : s.patch.commands[s.cc]? = some c) (hdec : decode c (valuesAhead s) = .illegal c') :
    step s = .next (faultEntry (.invalidOpcode c') (some s.cc) (fetched s)) := by
  simp only [step, hphase, hvr, if_false, executeOne, hc, hdec]
  rfl

theorem step_of_commands_ended (hphase : s.phase = .sampleStep) (hvr : s.vr ≠ 0)
    (hend : s.patch.commands.length ≤ s.cc) : step s = .next (commandStreamEnd s) := by
  simp only [step, hphase, hvr, if_false, executeOne, List.getElem?_eq_none hend]

theorem runTruncated_phase (op : Nat) (vs : List Byte) (s : State) :
    (runTruncated op vs s).phase = .idle := by
  rw [runTruncated]
  split_ifs <;> rfl

/-- A command whose fetch does not end the call runs the instruction decoded at the cursors. -/
theorem executeOne_cases {t : State} (ht : executeOne s = .next t) :
    t.phase = .idle ∨ ∃ c i, s.patch.commands[s.cc]? = some c ∧ exec i (fetched s) = .next t := by
  rw [executeOne] at ht
  cases hc : s.patch.commands[s.cc]? with
  | none =>
    rw [hc] at ht
    cases ht
    exact .inl rfl
  | some c =>
    simp only [hc] at ht
    cases hdec : decode c (valuesAhead s) with
    | instr i =>
      simp only [hdec] at ht
      exact .inr ⟨c, i, rfl, ht⟩
    | illegal c' =>
      simp only [hdec] at ht
      cases ht
      exact .inl rfl
    | ended op =>
      simp only [hdec] at ht
      cases ht
      exact .inl (runTruncated_phase op _ _)

/-! ### `advance` -/

theorem execAdvance_last (b : Bool) (h : s.vr = 1) :
    execAdvance b s = .next { s with vr := 0 } := by
  simp [execAdvance, h]

theorem execAdvance_shared (b : Bool) {r : Nat} (h : s.vr = r + 2)
    (hshare : s.patch.polyphonyBitmask.getLsbD (r + 1) = true) :
    execAdvance b s =
      .next { s with vr := r + 1, vi := s.vi + 1, ui := 0, cc := s.cci, vc := s.vci } := by
  simp [execAdvance, shareBit, h, hshare]

theorem execAdvance_unshared (b : Bool) {r : Nat} (h : s.vr = r + 2)
    (hshare : s.patch.polyphonyBitmask.getLsbD (r + 1) = false) :
    execAdvance b s =
      .next { s with vr := r + 1, vi := s.vi + 1, ui := 0, cci := s.cc, vci := s.vc } := by
  simp [execAdvance, shareBit, h, hshare]

end

/-! ### The work left -/

section
variable {s t : State}

/-- A voice less outweighs wherever the command cursor goes. -/
theorem workLeft_lt_of_voice (hpatch : t.patch = s.patch) (hvr : s.vr = t.vr + 1) :
    workLeft t < workLeft s := by
  rw [workLeft, workLeft, hpatch, hvr, Nat.succ_mul]
  omega

theorem workLeft_lt_of_command (hpatch : t.patch = s.patch) (hvr : t.vr = s.vr)
    (hcc : t.cc = s.cc + 1) (hlt : s.cc < s.patch.commands.length) : workLeft t < workLeft s := by
  rw [workLeft, workLeft, hpatch, hvr, hcc]
  omega

/-- `t` is in the same sample step as `s`, with its cursors in the stream and less work left. -/
structure RunsOn (s t : State) : Prop where
  phase : t.phase = .sampleStep
  cc : t.cc ≤ t.patch.commands.length
  cci : t.cci ≤ t.patch.commands.length
  work : workLeft t < workLeft s

theorem execAdvance_runsOn (b : Bool) (hphase : s.phase = .sampleStep) (hvr : s.vr ≠ 0)
    (hcc : s.cc < s.patch.commands.length) (hcci : s.cci ≤ s.patch.commands.length)
    (ht : execAdvance b (fetched s) = .next t) : RunsOn s t := by
  obtain ⟨r, hr⟩ := Nat.exists_eq_succ_of_ne_zero hvr
  cases r with
  | zero =>
    cases (execAdvance_last b (s := fetched s) hr).symm.trans ht
    exact ⟨hphase, hcc, hcci, workLeft_lt_of_voice rfl hr⟩
  | succ r =>
    cases hshare : s.patch.polyphonyBitmask.getLsbD (r + 1) with
    | true =>
      cases (execAdvance_shared b (s := fetched s) hr hshare).symm.trans ht
      exact ⟨hphase, hcci, hcci, workLeft_lt_of_voice rfl hr⟩
    | false =>
      cases (execAdvance_unshared b (s := fetched s) hr hshare).symm.trans ht
      exact ⟨hphase, hcc, hcc, workLeft_lt_of_voice rfl hr⟩

/-- A unit ends the call with a fault, or completes behind its command byte. -/
theorem unit_runsOn {i : Instr} (hunit : IsUnit i) (hphase : s.phase = .sampleStep)
    (hcc : s.cc < s.patch.commands.length) (hcci : s.cci ≤ s.patch.commands.length)
    (ht : exec i (fetched s) = .next t) : t.phase = .idle ∨ RunsOn s t := by
  obtain ⟨ts, n, handler, hrun, -, -, htakes⟩ := hunit
  rw [hrun] at ht
  obtain ⟨-, hout⟩ | ⟨-, u, hok, hout⟩ | ⟨-, e, u, -, hout⟩ :=
    runUnit_cases ts n handler (fetched s)
  · cases hout.symm.trans ht
    exact .inl rfl
  · cases hout.symm.trans ht
    have hk := htakes.ok hok
    have hpatch : u.patch = s.patch := by simp [hk.patch]
    have hcc' : u.cc = s.cc + 1 := by simp [hk.cc]
    have hcci' : u.cci = s.cci := by simp [hk.cci]
    refine .inr ⟨by simp [hk.phase, hphase], ?_, ?_, ?_⟩
    · simpa only [hpatch, hcc'] using Nat.succ_le_of_lt hcc
    · simpa only [hpatch, hcci'] using hcci
    · exact workLeft_lt_of_command hpatch (by simp [hk.vr]) hcc' hcc
  · cases hout.symm.trans ht
    exact .inl rfl

theorem executeOne_runsOn (hphase : s.phase = .sampleStep) (hvr : s.vr ≠ 0)
    (hcci : s.cci ≤ s.patch.commands.length) (ht : executeOne s = .next t) :
    t.phase = .idle ∨ RunsOn s t := by
  obtain hidle | ⟨c, i, hc, hexec⟩ := executeOne_cases ht
  · exact .inl hidle
  · have hcc : s.cc < s.patch.commands.length := (List.getElem?_eq_some_iff.1 hc).1
    by_cases hop : opcodeOf i.command = 0
    · obtain ⟨b, rfl⟩ := eq_advance_of_opcode_zero hop
      exact .inr (execAdvance_runsOn b hphase hvr hcc hcci hexec)
    · exact unit_runsOn (isUnit_of_ne_advance hop) hphase hcc hcci hexec

end

end Sys2Proof.Machine

namespace Sys2Proof.Proofs
open Sys2Proof.Machine

/-- Settles O52: a unit moves the command cursor on, and an `advance` takes a voice away, whose
share of the measure is more than a whole command stream. -/
theorem commandLowersWork : Obligations.CommandLowersWork := by
  intro s t hphase hvr _ hcci ht
  simp only [step, hphase, hvr, if_false] at ht
  exact (executeOne_runsOn hphase hvr hcci ht).imp_right fun h => ⟨h.phase, h.cc, h.cci, h.work⟩

/-- Settles O5; a placed word is the command and the value stream of its own patch. -/
theorem stepRunsDecoded : Obligations.StepRunsDecoded :=
  ⟨fun _ _ _ hphase hvr hc hdec => step_of_instr hphase hvr hc hdec,
    fun s nbits w _ h => step_of_instr (s := s.withFetchWord nbits w) rfl Nat.one_ne_zero rfl
      (decode_of_decodeTableWord h)⟩

/-- Settles O6: no command byte is there to fetch, or the decoder answers `illegal`
(DecodeRefusal). -/
theorem fetchFaults : Obligations.FetchFaults := by
  intro s hphase hvr
  refine ⟨step_of_commands_ended hphase hvr, fun c hc hop => ?_⟩
  obtain ⟨hillegal, -⟩ := decodeRefusal c (valuesAhead s)
  exact step_of_illegal hphase hvr hc (hillegal.2 hop)

/-- Settles O10, by the three cases of `advance`. -/
theorem advanceResult : Obligations.AdvanceResult := fun b _ =>
  ⟨execAdvance_last b, fun _ => execAdvance_shared b, fun _ => execAdvance_unshared b⟩

end Sys2Proof.Proofs
end

section
/-! What every unit checks before it writes: its number, and the stack depth (R405, R702). -/
namespace Sys2Proof.Machine

/-- On fewer than `n` stack elements the handler faults before it writes anything (R702). -/
def NeedsDepth {α : Type} (n : Nat) (m : M α) : Prop :=
  ∀ s, s.stk.length < n → m s = .error .stackUnderflow s

namespace NeedsDepth
variable {α β : Type} {n : Nat}

theorem zero {m : M α} : NeedsDepth 0 m := fun _ h => absurd h (Nat.not_lt_zero _)

theorem need {k : Unit → M α} : NeedsDepth n (Machine.need n >>= k) := fun s h => by
  rw [need_bind, if_neg (Nat.not_le.2 h)]

theorem param {i : Nat} {k : F32 → M α} (h : ∀ x, NeedsDepth n (k x)) :
    NeedsDepth n (Machine.param i >>= k) := fun s => h (readParam s i) s

theorem readAll {k : State → M α} (h : ∀ t, NeedsDepth n (k t)) :
    NeedsDepth n (Machine.readAll >>= k) := fun s => h s s

/-- The stereo and the mono form of a command check a depth of their own. -/
theorem forms {stereo : Bool} {deep shallow : Nat} {m m' : M α} (h : NeedsDepth deep m)
    (h' : NeedsDepth shallow m') (stereoDepth : stereo = true → n = deep := by rintro rfl; rfl)
    (monoDepth : stereo = false → n = shallow := by rintro rfl; rfl) :
    NeedsDepth n (if stereo then m else m') := by
  cases stereo
  · rw [monoDepth rfl]
    exact h'
  · rw [stereoDepth rfl]
    exact h

theorem mapChannels {stereo : Bool} {f : F32 → Num F32} :
    NeedsDepth (ch stereo) (mapChannels stereo f) := need

theorem combineTop {op : F32 → F32 → Num F32} {stereo : Bool} :
    NeedsDepth (2 * ch stereo) (combineTop op stereo) := forms need need

theorem combineNext {op : F32 → F32 → Num F32} {stereo : Bool} :
    NeedsDepth (2 * ch stereo) (combineNext op stereo) := forms need need

end NeedsDepth

/-- The instruction runs as a unit whose handler starts after its operands and checks the depth it
reads. -/
def ChecksDepth (i : Instr) : Prop :=
  ∃ (ts : List Byte) (extras : Nat) (handler : M Unit),
    (∀ s, exec i s = runUnit ts extras handler s) ∧
    (∀ s, afterOperands i s = operandsRead ts extras s) ∧ NeedsDepth (depthRead i) handler

theorem ChecksDepth.intro {i : Instr} {handler : M Unit} (ts : List Byte) (extras : Nat)
    (run : ∀ s, exec i s = runUnit ts extras handler s) (needs : NeedsDepth (depthRead i) handler)
    (start : ∀ s, afterOperands i s = operandsRead ts extras s := by simp) : ChecksDepth i :=
  ⟨ts, extras, handler, run, start, needs⟩

theorem checksDepth_of_ne_advance {i : Instr} (h : ∀ b, i ≠ .advance b) : ChecksDepth i := by
  cases i with
  | advance b => exact absurd rfl (h b)
  | add b | mul b => exact .intro [] 0 (fun _ => rfl) .combineTop
  | addp b | mulp b => exact .intro [] 0 (fun _ => rfl) .combineNext
  | xch b | push b => exact .intro [] 0 (fun _ => rfl) <| .forms .need .need
  | pop b | speed b | sync b => exact .intro [] 0 (fun _ => rfl) .need
  | clip b => exact .intro [] 0 (fun _ => rfl) .mapChannels
  | gain b t0 | invgain b t0 | distort b t0 =>
    exact .intro [t0] 0 (fun _ => rfl) <| .param fun _ => .mapChannels
  | crush b t0 =>
    exact .intro [t0] 0 (fun _ => rfl) <| .param fun _ => .readAll fun _ => .mapChannels
  | pan b t0 => exact .intro [t0] 0 (fun _ => rfl) <| .param fun _ => .forms .need .need
  | hold b t0 => exact .intro [t0] 0 (fun _ => rfl) .need
  | filter b t0 t1 x0 => exact .intro [t0, t1] 1 (fun _ => rfl) .need
  | delay b t0 t1 t2 t3 t4 x0 x1 => exact .intro [t0, t1, t2, t3, t4] 2 (fun _ => rfl) .need
  | compressor b t0 t1 t2 t3 t4 => exact .intro [t0, t1, t2, t3, t4] 0 (fun _ => rfl) .need
  | out b t0 => exact .intro [t0] 0 (fun _ => rfl) <| .param fun _ => .need
  | outaux b t0 t1 =>
    exact .intro [t0, t1] 0 (fun _ => rfl) <| .param fun _ => .param fun _ => .need
  | aux b t0 x0 => exact .intro [t0] 1 (fun _ => rfl) .need
  | send b t0 a => exact .intro [t0] 2 (fun _ => rfl) .need
  | loadnote b | receive b => exact .intro [] 0 (fun _ => rfl) .zero
  | loadval b t0 => exact .intro [t0] 0 (fun _ => rfl) .zero
  | noise b t0 t1 => exact .intro [t0, t1] 0 (fun _ => rfl) .zero
  | input b x0 => exact .intro [] 1 (fun _ => rfl) .zero
  | envelope b t0 t1 t2 t3 t4 => exact .intro [t0, t1, t2, t3, t4] 0 (fun _ => rfl) .zero
  | oscillator b t0 t1 t2 t3 t4 t5 x0 g =>
    exact .intro [t0, t1, t2, t3, t4, t5] (if g.isSome then 3 else 1) (fun _ => rfl) .zero

end Sys2Proof.Machine

namespace Sys2Proof.Proofs
open Sys2Proof.Machine

/-- Settles O8: every instruction but `advance`, which reads no stack element, runs as a unit that
checks the depth. -/
theorem unitChecks : Obligations.UnitChecks := by
  intro i s
  constructor
  · intro hne hu
    obtain ⟨ts, n, handler, hrun, -, -⟩ := checksDepth_of_ne_advance hne
    rw [hrun, runUnit_full hu]
  · intro hu hdepth
    have hne : ∀ b, i ≠ .advance b := by
      rintro b rfl
      exact absurd hdepth (Nat.not_lt_zero _)
    obtain ⟨ts, n, handler, hrun, hstart, hneeds⟩ := checksDepth_of_ne_advance hne
    have hfault := hneeds (operandsRead ts n s) (by rwa [operandsRead_stk])
    rw [hrun, hstart, runUnit_below hu, hfault, finishUnit_error]

end Sys2Proof.Proofs
end

section
/-! The sample loop: its test, the sync record, and the end of a sample step (R400, R401, R410). -/
namespace Sys2Proof.Machine

variable {s : State}

/-! ### The loop test -/

theorem loopGoesOn_iff :
    loopGoesOn s = true ↔ s.time < s.maxtime ∧ s.bufPos + 2 ≤ s.buffer.length := by
  rw [loopGoesOn, Bool.and_eq_true, decide_eq_true_iff, decide_eq_true_iff, bufCap]

/-- The low byte of `globalTime` is its remainder by 256 (R401). -/
theorem syncDue_iff : syncDue s = true ↔ s.globalTime.toNat % 256 = 0 := by
  have hlow : (s.globalTime &&& 0xFF#32).toNat = s.globalTime.toNat % 256 := by
    rw [BitVec.toNat_and]
    exact Nat.and_two_pow_sub_one_eq_mod _ 8
  rw [syncDue, beq_iff_eq, ← BitVec.toNat_inj, hlow, BitVec.toNat_ofNat, Nat.zero_mod]

theorem loopStep_return (h : ¬ loopGoesOn s = true) : loopStep s = renderReturn s := if_neg h

theorem loopStep_goesOn (h : loopGoesOn s = true) :
    loopStep s = finishOutside (syncRecord (resetSequencer s)) := if_pos h

theorem syncRecord_notDue (h : ¬ syncDue s = true) : syncRecord s = .ok () s := by
  rw [syncRecord, readAll_bind, if_neg h, pure_run]

theorem syncRecord_room (h : syncDue s = true) (hroom : s.syncPos < syncCap s) :
    syncRecord s = .ok () { s with
      syncBuffer := s.syncBuffer.set s.syncPos (ofInt s.time)
      syncPos := s.syncPos + 1
      syncs := s.syncs + 1 } := by
  rw [syncRecord, readAll_bind, if_pos h, syncWrite_bind, if_pos hroom, change_run]

theorem syncRecord_full (h : syncDue s = true) (hfull : syncCap s ≤ s.syncPos) :
    syncRecord s = .error (.renderFault .syncBufferFull) s := by
  rw [syncRecord, readAll_bind, if_pos h, syncWrite_bind, if_neg (Nat.not_lt.2 hfull)]

/-! ### The end of a sample step -/

theorem endOfStep_underflow (h : s.stk.length < 4) :
    endOfStep s = faultEntry .stackUnderflow none s := if_pos h

theorem endOfStep_notEmpty (h : 4 < s.stk.length) :
    endOfStep s = faultEntry .stackNotEmpty none s := by
  rw [endOfStep, if_neg (Nat.lt_asymm h), if_pos h]

theorem endOfStep_emit (h : s.stk.length = 4) : endOfStep s = emitSample s := by
  simp only [endOfStep, h, Nat.lt_irrefl, if_false]

theorem readOutput_eq_getElem {c : Nat} (hc : c < 8) : readOutput s c = s.outputs[c] := by
  simp [readOutput, hc]

theorem emitSample_eq : emitSample s = { s with
    buffer := (s.buffer.set s.bufPos s.outputs[0]).set (s.bufPos + 1) s.outputs[1]
    bufPos := s.bufPos + 2
    outputs := (s.outputs.set 0 f0).set 1 f0
    samples := s.samples + 1
    time := s.time + 1
    globalTime := s.globalTime + 1
    phase := .loopTest } := by
  rw [emitSample, readOutput_eq_getElem (by decide), readOutput_eq_getElem (by decide),
    setIfInBounds_eq_set _ _ (by decide), setIfInBounds_eq_set _ _ (by decide)]

end Sys2Proof.Machine

namespace Sys2Proof.Proofs
open Sys2Proof.Machine

/-- Settles O47: the sequencer is reset, and then the cases are those of the sync record. -/
theorem loopTest : Obligations.LoopTest := by
  intro s hphase goesOn due t
  have hstep : step s = .next (loopStep s) := by rw [step, hphase]
  have hbegin (hgo : goesOn) : step s = .next (finishOutside (syncRecord t)) := by
    rw [hstep, loopStep_goesOn (loopGoesOn_iff.2 hgo)]
    rfl
  have hdue : syncDue t = true ↔ due := syncDue_iff
  refine ⟨fun hstop => ?_, fun hgo hnot => ?_, fun hgo hd hroom => ?_, fun hgo hd hfull => ?_⟩
  · rw [hstep, loopStep_return (mt loopGoesOn_iff.1 hstop), renderReturn]
  · rw [hbegin hgo, syncRecord_notDue (mt hdue.1 hnot), finishOutside]
  · rw [hbegin hgo, syncRecord_room (hdue.2 hd) hroom, finishOutside]
  · rw [hbegin hgo, syncRecord_full (hdue.2 hd) hfull, finishOutside]

/-- Settles O48, by the three cases of the depth. -/
theorem endOfStep : Obligations.EndOfStep := by
  intro s hphase hvr
  have hstep : step s = .next (Machine.endOfStep s) := by simp only [step, hphase, hvr, if_true]
  refine ⟨fun hlow => ?_, fun hhigh => ?_, fun hfour => ?_⟩
  · rw [hstep, endOfStep_underflow hlow]
  · rw [hstep, endOfStep_notEmpty hhigh]
  · rw [hstep, endOfStep_emit hfour, emitSample_eq]

end Sys2Proof.Proofs
end

section
/-! The stack primitives on a stack that holds their operands (R420 to R426). -/
namespace Sys2Proof.Machine

variable {s : State} {i : Instr} {m : M Unit}

/-! ### An instruction without operands, whose handler starts in the state itself -/

theorem exec_of_handler {r : EStateM.Result RenderError State Unit}
    (hrun : exec i s = runUnit [] 0 m s) (hu : s.ui < 63) (hm : m s = r) :
    exec i s = .next (finishUnit (commandSite s) r) := by
  rw [hrun, runUnit_below hu, operandsRead_nil, hm]

theorem exec_of_handler_ok {t : State} (hrun : exec i s = runUnit [] 0 m s) (hu : s.ui < 63)
    (hm : m s = .ok () t) : exec i s = .next { t with ui := t.ui + 1 } :=
  exec_of_handler hrun hu hm

theorem exec_stackUnderflow (hops : afterOperands i s = s) (hu : s.ui < 63)
    (hdepth : s.stk.length < depthRead i) :
    exec i s = .next (faultEntry .stackUnderflow (commandSite s) s) := by
  rw [(Proofs.unitChecks i s).2 hu hdepth, hops]

/-! ### The parts of the handlers -/

theorem need_of_stk {front rest : List F32} (h : s.stk = front ++ rest) (k : Unit → M Unit) :
    (need front.length >>= k) s = k () s := by
  rw [need_bind, if_pos (by simp [h])]

theorem combineInto_run (op : F32 → F32 → Num F32) (i j : Nat) (s : State) :
    combineInto op i j s = .ok () { s with
      stk := s.stk.set i (op (s.stk.getD i f0) (s.stk.getD j f0) s.draws).1
      draws := (op (s.stk.getD i f0) (s.stk.getD j f0) s.draws).2 } := (rfl)

theorem swap_run (i j : Nat) (s : State) :
    swap i j s = .ok () { s with
      stk := (s.stk.set i (s.stk.getD j f0)).set j (s.stk.getD i f0) } := (rfl)

theorem push_room (v : F32) (h : s.stk.length < stackCap s) :
    push v s = .ok () { s with stk := v :: s.stk } := by rw [push_run, if_pos h]

theorem push_full (v : F32) (h : stackCap s ≤ s.stk.length) :
    push v s = .error (.renderFault .stackOverflow) s := by rw [push_run, if_neg (Nat.not_lt.2 h)]

variable {x y x0 x1 y0 y1 : F32} {rest : List F32}

/-! ### `add` and `mul` -/

theorem combineTop_mono (op : F32 → F32 → Num F32) (h : s.stk = x :: y :: rest) :
    combineTop op false s = .ok () { s with
      stk := (op x y s.draws).1 :: y :: rest, draws := (op x y s.draws).2 } := by
  refine (need_of_stk (front := [x, y]) h _).trans ?_
  simp [combineInto_run, h]

/-- The upper elements are combined first, and the lower ones take the draws behind them. -/
theorem combineTop_stereo (op : F32 → F32 → Num F32) (h : s.stk = x0 :: x1 :: y0 :: y1 :: rest) :
    combineTop op true s = .ok () { s with
      stk := (op x0 y0 s.draws).1 :: (op x1 y1 (op x0 y0 s.draws).2).1 :: y0 :: y1 :: rest
      draws := (op x1 y1 (op x0 y0 s.draws).2).2 } := by
  refine (need_of_stk (front := [x0, x1, y0, y1]) h _).trans ?_
  rw [bind_ok (combineInto_run op 0 2 s), combineInto_run]
  simp [h]

/-! ### `addp` and `mulp` -/

theorem combineNext_mono (op : F32 → F32 → Num F32) (h : s.stk = x :: y :: rest) :
    combineNext op false s = .ok () { s with
      stk := (op y x s.draws).1 :: rest, draws := (op y x s.draws).2 } := by
  refine (need_of_stk (front := [x, y]) h _).trans ?_
  rw [bind_ok (combineInto_run op 1 0 s), drop_run]
  simp [h]

/-- The upper elements are combined first, and the lower ones take the draws behind them. -/
theorem combineNext_stereo (op : F32 → F32 → Num F32) (h : s.stk = x0 :: x1 :: y0 :: y1 :: rest) :
    combineNext op true s = .ok () { s with
      stk := (op y0 x0 s.draws).1 :: (op y1 x1 (op y0 x0 s.draws).2).1 :: rest
      draws := (op y1 x1 (op y0 x0 s.draws).2).2 } := by
  refine (need_of_stk (front := [x0, x1, y0, y1]) h _).trans ?_
  rw [bind_ok (combineInto_run op 2 0 s), bind_ok (combineInto_run op 3 1 _), drop_run]
  simp [h]

/-! ### `xch`, `push` and `pop` -/

theorem execXch_mono (hu : s.ui < 63) (h : s.stk = x :: y :: rest) :
    exec (.xch false) s = .next { s with stk := y :: x :: rest, ui := s.ui + 1 } := by
  refine exec_of_handler_ok rfl hu (t := { s with stk := y :: x :: rest }) ?_
  refine (need_of_stk (front := [x, y]) h _).trans ?_
  simp [swap_run, h]

theorem execXch_stereo (hu : s.ui < 63) (h : s.stk = x0 :: x1 :: y0 :: y1 :: rest) :
    exec (.xch true) s = .next { s with stk := y0 :: y1 :: x0 :: x1 :: rest, ui := s.ui + 1 } := by
  refine exec_of_handler_ok rfl hu (t := { s with stk := y0 :: y1 :: x0 :: x1 :: rest }) ?_
  refine (need_of_stk (front := [x0, x1, y0, y1]) h _).trans ?_
  rw [bind_ok (swap_run 0 2 s), swap_run]
  simp [h]

/-- After its reads the mono form is one push. -/
theorem execPush_mono (hu : s.ui < 63) (h : s.stk = x :: rest) :
    exec (.push false) s = .next (finishUnit (commandSite s) (push x s)) := by
  refine exec_of_handler rfl hu ?_
  refine (need_of_stk (front := [x]) h _).trans ?_
  rw [top_bind, h]
  rfl

/-- After its reads the stereo form is two pushes, the deeper element first (R425). -/
theorem execPush_stereo (hu : s.ui < 63) (h : s.stk = x :: y :: rest) :
    exec (.push true) s = .next (finishUnit (commandSite s) ((push y >>= fun _ => push x) s)) := by
  refine exec_of_handler rfl hu ?_
  refine (need_of_stk (front := [x, y]) h _).trans ?_
  rw [top_bind, top_bind, h]
  rfl

theorem execPop_eq (b : Bool) (hu : s.ui < 63) (h : ch b ≤ s.stk.length) :
    exec (.pop b) s = .next { s with stk := s.stk.drop (ch b), ui := s.ui + 1 } := by
  refine exec_of_handler_ok rfl hu (t := { s with stk := s.stk.drop (ch b) }) ?_
  rw [need_bind, if_pos h, drop_run]

end Sys2Proof.Machine

namespace Sys2Proof.Proofs
open Sys2Proof.Machine

/-- Settles O11: `add` and `mul` are one handler over two operations. -/
theorem addMulResult : Obligations.AddMulResult := by
  intro s hu
  refine ⟨fun x y rest h => ⟨?_, ?_⟩, fun x0 x1 y0 y1 rest h => ⟨?_, ?_⟩, fun b h => ⟨?_, ?_⟩⟩
  · exact exec_of_handler_ok rfl hu (combineTop_mono fadd h)
  · exact exec_of_handler_ok rfl hu (combineTop_mono fmul h)
  · exact exec_of_handler_ok rfl hu (combineTop_stereo fadd h)
  · exact exec_of_handler_ok rfl hu (combineTop_stereo fmul h)
  · exact exec_stackUnderflow (afterOperands_add s b) hu h
  · exact exec_stackUnderflow (afterOperands_mul s b) hu h

/-- Settles O12: `addp` and `mulp` are one handler over two operations. -/
theorem addpMulpResult : Obligations.AddpMulpResult := by
  intro s hu
  refine ⟨fun x y rest h => ⟨?_, ?_⟩, fun x0 x1 y0 y1 rest h => ⟨?_, ?_⟩, fun b h => ⟨?_, ?_⟩⟩
  · exact exec_of_handler_ok rfl hu (combineNext_mono fadd h)
  · exact exec_of_handler_ok rfl hu (combineNext_mono fmul h)
  · exact exec_of_handler_ok rfl hu (combineNext_stereo fadd h)
  · exact exec_of_handler_ok rfl hu (combineNext_stereo fmul h)
  · exact exec_stackUnderflow (afterOperands_addp s b) hu h
  · exact exec_stackUnderflow (afterOperands_mulp s b) hu h

/-- Settles O13; the stereo form swaps the upper elements, then the lower ones. -/
theorem xchResult : Obligations.XchResult := fun s hu =>
  ⟨fun _ _ _ => execXch_mono hu, fun _ _ _ _ _ => execXch_stereo hu,
    fun b => exec_stackUnderflow (afterOperands_xch s b) hu⟩

/-- Settles O14, by where the push that finds no room stands. -/
theorem pushResult : Obligations.PushResult := by
  intro s hu
  refine ⟨fun x rest h hroom => ?_, fun x rest h hfull => ?_, fun x y rest h hroom => ?_,
    fun x y rest h hone => ?_, fun x y rest h hfull => ?_, fun b => ?_⟩
  · rw [execPush_mono hu h, push_room x hroom, h, finishUnit_ok]
  · rw [execPush_mono hu h, push_full x hfull, finishUnit_error]
  · have hfirst := push_room y (Nat.lt_of_succ_lt hroom)
    have hsecond := push_room (s := { s with stk := y :: s.stk }) x hroom
    rw [execPush_stereo hu h, bind_ok hfirst, hsecond, h, finishUnit_ok]
  · have hfirst := push_room y (Nat.lt_of_succ_le hone.le)
    have hsecond := push_full (s := { s with stk := y :: s.stk }) x hone.ge
    rw [execPush_stereo hu h, bind_ok hfirst, hsecond, h, finishUnit_error]
  · rw [execPush_stereo hu h, bind_error (push_full y hfull), finishUnit_error]
  · exact exec_stackUnderflow (afterOperands_push s b) hu

/-- Settles O15: both forms drop their channel count of elements. -/
theorem popResult : Obligations.PopResult := by
  intro s hu
  refine ⟨fun x rest h => ?_, fun x y rest h => ?_, fun b => ?_⟩
  · rw [execPop_eq false hu (by simp [h]), h]
    rfl
  · rw [execPop_eq true hu (by simp [h]), h]
    rfl
  · exact exec_stackUnderflow (afterOperands_pop s b) hu

end Sys2Proof.Proofs
end

section
/-! The signal sources: what their handlers push, and from which state (R440 to R444). -/
namespace Sys2Proof.Machine

variable {s t : State}

/-! ### Pushes onto the stack a command starts with -/

/-- `t` is `s` as far as a push and the end of the unit look at it. -/
structure SameStack (s t : State) : Prop where
  cfg : t.cfg = s.cfg := by rfl
  stk : t.stk = s.stk := by rfl
  ui : t.ui = s.ui := by rfl

theorem SameStack.stackCap (h : SameStack s t) : Machine.stackCap t = Machine.stackCap s := by
  rw [Machine.stackCap, Machine.stackCap, h.cfg]

section Pushes
variable {site : Option Nat} (same : SameStack s t) (v w : F32)
include same

theorem push_room_of_same (hroom : s.stk.length < stackCap s) :
    push v t = .ok () { t with stk := v :: s.stk } := by
  rw [push_room v (by rwa [same.stk, same.stackCap]), same.stk]

theorem push_full_of_same (hfull : stackCap s ≤ s.stk.length) :
    push v t = .error (.renderFault .stackOverflow) t :=
  push_full v (by rwa [same.stk, same.stackCap])

theorem finishUnit_push_room (hroom : s.stk.length < stackCap s) :
    finishUnit site (push v t) = { t with stk := v :: s.stk, ui := s.ui + 1 } := by
  rw [push_room_of_same same v hroom, finishUnit_ok, same.ui]

theorem finishUnit_push_full (hfull : stackCap s ≤ s.stk.length) :
    finishUnit site (push v t) = faultEntry (.renderFault .stackOverflow) site t := by
  rw [push_full_of_same same v hfull, finishUnit_error]

/-- The state after a first push that found room, as the second one meets it. -/
theorem SameStack.pushed :
    SameStack { s with stk := v :: s.stk } { t with stk := v :: s.stk } :=
  { cfg := same.cfg, stk := rfl, ui := same.ui }

theorem finishUnit_pushes_room (hroom : s.stk.length + 1 < stackCap s) :
    finishUnit site ((push v >>= fun _ => push w) t) =
      { t with stk := w :: v :: s.stk, ui := s.ui + 1 } := by
  rw [bind_ok (push_room_of_same same v (Nat.lt_of_succ_lt hroom)),
    finishUnit_push_room (same.pushed v) w hroom]

theorem finishUnit_pushes_roomForOne (hone : s.stk.length + 1 = stackCap s) :
    finishUnit site ((push v >>= fun _ => push w) t) =
      faultEntry (.renderFault .stackOverflow) site { t with stk := v :: s.stk } := by
  rw [bind_ok (push_room_of_same same v (Nat.lt_of_succ_le hone.le)),
    finishUnit_push_full (same.pushed v) w hone.ge]

theorem finishUnit_push_then_full (k : Unit → M Unit) (hfull : stackCap s ≤ s.stk.length) :
    finishUnit site ((push v >>= k) t) = faultEntry (.renderFault .stackOverflow) site t := by
  rw [bind_error (push_full_of_same same v hfull), finishUnit_error]

theorem finishUnit_pushTwice_full (b : Bool) (hfull : stackCap s ≤ s.stk.length) :
    finishUnit site (pushTwice b v t) = faultEntry (.renderFault .stackOverflow) site t := by
  cases b
  · rw [pushTwice_false, finishUnit_push_full same v hfull]
  · rw [pushTwice_true, finishUnit_push_then_full same v _ hfull]

end Pushes

/-! ### `loadval` and `loadnote` -/

theorem execLoadval_eq (b : Bool) (v : Byte) (hu : s.ui < 63) :
    exec (.loadval b v) s = .next (finishUnit (commandSite s)
      (pushTwice b
        (subAt ((operandsRead [v] 0 s).draws + 1)
          (mulAt (operandsRead [v] 0 s).draws (readParam (operandsRead [v] 0 s) 0) f2) f1)
        { operandsRead [v] 0 s with draws := (operandsRead [v] 0 s).draws + 2 })) := by
  refine (runUnit_below hu [v] 0 _).trans ?_
  rw [param_bind, num_then, signedParam_run]

theorem noteSignal_run (note : Byte) (d : Nat) :
    noteSignal note d = (subAt (d + 1) (divAt d (ofInt note.toNat) f64) f1, d + 2) := (rfl)

theorem execLoadnote_eq (b : Bool) (hu : s.ui < 63) :
    exec (.loadnote b) s = .next (finishUnit (commandSite s)
      (pushTwice b
        (subAt (s.draws + 1) (divAt s.draws (ofInt (s.voices.get s.vi).note.toNat) f64) f1)
        { s with draws := s.draws + 2 })) := by
  refine (runUnit_below hu [] 0 _).trans ?_
  rw [operandsRead_nil, readAll_bind, num_then, noteSignal_run, currentVoice]

/-! ### `noise` -/

/-- The shaped draw of one channel of `noise`, and the draw counter behind it. -/
def noiseWave (s : State) : F32 × Nat :=
  waveshape (divAt s.draws (ofInt (s.randSeed * 16007).toInt) fNegTwo31) (readParam s 0)
    (s.draws + 1)

/-- What one channel of `noise` pushes. -/
def noiseValue (s : State) : F32 := mulAt (noiseWave s).2 (noiseWave s).1 (readParam s 1)

/-- The state in which one channel of `noise` pushes. -/
def noiseDrawn (s : State) : State :=
  { s with randSeed := s.randSeed * 16007, draws := (noiseWave s).2 + 1 }

theorem noiseChannel_run (s : State) : noiseChannel s = push (noiseValue s) (noiseDrawn s) := by
  rw [noiseChannel, rand_bind, param_bind, param_bind, num_then, num_bind, fmul_run]
  rfl

/-- The state after one channel of `noise` that found room. -/
def noisePushed (s : State) : State := { noiseDrawn s with stk := noiseValue s :: s.stk }

theorem SameStack.noiseDrawn (same : SameStack s t) : SameStack s (noiseDrawn t) :=
  { cfg := same.cfg, stk := same.stk, ui := same.ui }

theorem SameStack.noisePushed (same : SameStack s t) :
    SameStack { s with stk := noiseValue t :: s.stk } (noisePushed t) :=
  { cfg := same.cfg, stk := congrArg (noiseValue t :: ·) same.stk, ui := same.ui }

theorem noiseChannel_room (same : SameStack s t) (hroom : s.stk.length < stackCap s) :
    noiseChannel t = .ok () (noisePushed t) := by
  rw [noiseChannel_run, push_room_of_same same.noiseDrawn _ hroom, noisePushed, same.stk]

theorem noiseChannel_full (same : SameStack s t) (hfull : stackCap s ≤ s.stk.length) :
    noiseChannel t = .error (.renderFault .stackOverflow) (noiseDrawn t) := by
  rw [noiseChannel_run, push_full_of_same same.noiseDrawn _ hfull]

theorem execNoise_eq (b : Bool) (shape gain : Byte) (hu : s.ui < 63) :
    exec (.noise b shape gain) s = .next (finishUnit (commandSite s)
      (forChannels b (fun _ => noiseChannel) (operandsRead [shape, gain] 0 s))) :=
  runUnit_below hu [shape, gain] 0 _

/-! ### `receive` -/

theorem execReceive_mono (hu : s.ui < 63) :
    exec (.receive false) s = .next (finishUnit (commandSite s)
      (push (readPort s s.vi s.ui 0) (writePort s s.vi s.ui 0 f0))) :=
  runUnit_below hu [] 0 _

/-- Both ports are read before either is cleared. -/
theorem execReceive_stereo (hu : s.ui < 63) :
    exec (.receive true) s = .next (finishUnit (commandSite s)
      ((push (readPort s s.vi s.ui 1) >>= fun _ => push (readPort s s.vi s.ui 0))
        (writePort (writePort s s.vi s.ui 0 f0) s.vi s.ui 1 f0))) :=
  runUnit_below hu [] 0 _

/-! ### `in` -/

theorem execInput_channelRange (b : Bool) (c : Byte) (hu : s.ui < 63)
    (hbad : 8 ≤ c.toNat + b.toNat) :
    exec (.input b c) s = .next
      (faultEntry (.renderFault .channelRange) (commandSite s) { s with vc := s.vc + 1 }) := by
  have hraise : channelBad c b = true := decide_eq_true hbad
  refine (runUnit_below hu [] 1 _).trans ?_
  rw [raiseIf_bind, hraise, if_pos rfl, finishUnit_error]
  rfl

theorem execInput_mono (c : Byte) (hu : s.ui < 63) (hc : c.toNat < 8) :
    exec (.input false c) s = .next (finishUnit (commandSite s)
      (push (readOutput s c.toNat) (writeOutput { s with vc := s.vc + 1 } c.toNat f0))) := by
  have hgood : channelBad c false = false := decide_eq_false (Nat.not_le.2 hc)
  refine (runUnit_below hu [] 1 _).trans ?_
  rw [raiseIf_bind, hgood]
  rfl

/-- Both channels are read before either is cleared. -/
theorem execInput_stereo (c : Byte) (hu : s.ui < 63) (hc : c.toNat < 7) :
    exec (.input true c) s = .next (finishUnit (commandSite s)
      ((push (readOutput s (c.toNat + 1)) >>= fun _ => push (readOutput s c.toNat))
        (writeOutput (writeOutput { s with vc := s.vc + 1 } c.toNat f0) (c.toNat + 1) f0))) := by
  have hgood : channelBad c true = false := decide_eq_false (Nat.not_le.2 (Nat.succ_lt_succ hc))
  refine (runUnit_below hu [] 1 _).trans ?_
  rw [raiseIf_bind, hgood]
  rfl

end Sys2Proof.Machine

namespace Sys2Proof.Proofs
open Sys2Proof.Machine

/-- Settles O16: both push one value, in stereo twice, and differ in the value and the start. -/
theorem constantSourcesResult : Obligations.ConstantSourcesResult := by
  intro v s hu m x m' y s'
  have hval (b : Bool) := execLoadval_eq b v hu
  have hnote (b : Bool) := execLoadnote_eq b hu
  have hm : SameStack s m' := {}
  have hs : SameStack s s' := {}
  refine ⟨fun hroom => ⟨?_, ?_⟩, fun hroom => ⟨?_, ?_⟩, fun hone => ⟨?_, ?_⟩,
    fun b hfull => ⟨?_, ?_⟩⟩
  · rw [hval, pushTwice_false, finishUnit_push_room hm x hroom]
  · rw [hnote, pushTwice_false, finishUnit_push_room hs y hroom]
  · rw [hval, pushTwice_true, finishUnit_pushes_room hm x x hroom]
  · rw [hnote, pushTwice_true, finishUnit_pushes_room hs y y hroom]
  · rw [hval, pushTwice_true, finishUnit_pushes_roomForOne hm x x hone]
  · rw [hnote, pushTwice_true, finishUnit_pushes_roomForOne hs y y hone]
  · rw [hval, finishUnit_pushTwice_full hm x b hfull]
  · rw [hnote, finishUnit_pushTwice_full hs y b hfull]

/-- Settles O17: the second channel starts in the state the first push left. -/
theorem noiseResult : Obligations.NoiseResult := by
  intro shape gain s hu m seed1 seed2 w1 y1 w2 y2
  have hexec (b : Bool) := execNoise_eq b shape gain hu
  have same : SameStack s m := {}
  have hseed : m.randSeed = s.randSeed := operandsRead_randSeed s [shape, gain] 0
  have hdrawn : noiseDrawn m = { m with randSeed := seed1, draws := w1.2 + 1 } := by
    rw [noiseDrawn, noiseWave, hseed]
  have hpushed : noisePushed m =
      { m with randSeed := seed1, draws := w1.2 + 1, stk := y1 :: s.stk } := by
    rw [noisePushed, hdrawn, noiseValue, noiseWave, hseed, same.stk]
  refine ⟨fun hroom => ?_, fun hroom => ?_, fun hone => ?_, fun b hfull => ?_⟩
  · rw [hexec, forChannels_false, noiseChannel_room same hroom, hpushed, finishUnit_ok]
    rfl
  · rw [hexec, forChannels_true, bind_ok (noiseChannel_room same (Nat.lt_of_succ_lt hroom)),
      noiseChannel_room same.noisePushed hroom, hpushed, finishUnit_ok]
    rfl
  · rw [hexec, forChannels_true, bind_ok (noiseChannel_room same (Nat.lt_of_succ_le hone.le)),
      noiseChannel_full same.noisePushed hone.ge, hpushed, finishUnit_error]
    rfl
  · have hfirst := noiseChannel_full same hfull
    cases b
    · rw [hexec, forChannels_false, hfirst, hdrawn, finishUnit_error]
    · rw [hexec, forChannels_true, bind_error hfirst, hdrawn, finishUnit_error]

/-- Settles O18: both forms clear what they read and then push. -/
theorem receiveResult : Obligations.ReceiveResult := by
  intro s hu t r c1 c2
  have hmono := execReceive_mono hu
  have hstereo := execReceive_stereo hu
  have same1 : SameStack s c1 := {}
  have same2 : SameStack s c2 := {}
  refine ⟨fun hroom => ?_, fun hfull => ?_, fun hroom => ?_, fun hone => ?_, fun hfull => ?_⟩
  · rw [hmono, finishUnit_push_room same1 t hroom]
  · rw [hmono, finishUnit_push_full same1 t hfull]
  · rw [hstereo, finishUnit_pushes_room same2 r t hroom]
  · rw [hstereo, finishUnit_pushes_roomForOne same2 r t hone]
  · rw [hstereo, finishUnit_push_then_full same2 r _ hfull]

/-- Settles O19: with the channel in range, both forms clear what they read and then push. -/
theorem inResult : Obligations.InResult := by
  intro c s hu m k
  have same1 : SameStack s (writeOutput m k f0) := {}
  have same2 : SameStack s (writeOutput (writeOutput m k f0) (k + 1) f0) := {}
  refine ⟨fun b hbad => execInput_channelRange b c hu hbad, fun hk hroom => ?_,
    fun hk hfull => ?_, fun hk hroom => ?_, fun hk hone => ?_, fun hk hfull => ?_⟩
  · rw [execInput_mono c hu hk, finishUnit_push_room same1 _ hroom]
  · rw [execInput_mono c hu hk, finishUnit_push_full same1 _ hfull]
  · rw [execInput_stereo c hu hk, finishUnit_pushes_room same2 _ _ hroom]
  · rw [execInput_stereo c hu hk, finishUnit_pushes_roomForOne same2 _ _ hone]
  · rw [execInput_stereo c hu hk, finishUnit_push_then_full same2 _ _ hfull]

end Sys2Proof.Proofs
end

section
/-! The sinks: their adds to the output bus, each to a channel of its own, and the pop (R460 to
R462). -/
namespace Sys2Proof.Machine

variable {s t : State} {x y : F32} {rest : List F32}

/-- A unit that finds too few stack elements faults in the state its handler starts from (R702). -/
theorem exec_stackUnderflow_of_start {i : Instr} (hstart : afterOperands i s = t) (hu : s.ui < 63)
    (hdepth : s.stk.length < depthRead i) :
    exec i s = .next (faultEntry .stackUnderflow (commandSite s) t) :=
  hstart ▸ (Proofs.unitChecks i s).2 hu hdepth

@[simp] theorem readOutput_operandsRead (ts : List Byte) (n : Nat) (s : State) (c : Nat) :
    readOutput (operandsRead ts n s) c = readOutput s c := by
  rw [readOutput, operandsRead_outputs, readOutput]

/-! ### Bus adds -/

/-- What an add of `g * x` leaves on channel `c` of the bus of `s`, from draw `d` on. -/
def busSum (s : State) (d c : Nat) (g x : F32) : F32 :=
  addAt (d + 1) (readOutput s c) (mulAt d g x)

/-- The state after a bus add that left `v` on channel `c`. -/
def busAdded (c : Nat) (v : F32) (t : State) : State :=
  writeOutput { t with draws := t.draws + 2 } c v

theorem readOutput_busAdded_other {c k : Nat} (v : F32) (h : k ≠ c) :
    readOutput (busAdded c v t) k = readOutput t k :=
  readOutput_writeOutput_other _ h

/-- The four adds of stereo `outaux`, over any values, so that no arithmetic is unfolded. -/
theorem busAdded_four (c₀ c₁ c₂ c₃ : Nat) (v₀ v₁ v₂ v₃ : F32) :
    busAdded c₃ v₃ (busAdded c₂ v₂ (busAdded c₁ v₁ (busAdded c₀ v₀ t))) =
      { writeOutput (writeOutput (writeOutput (writeOutput t c₀ v₀) c₁ v₁) c₂ v₂) c₃ v₃ with
        draws := t.draws + 8 } := rfl

theorem SameStack.busAdded (same : SameStack s t) (c : Nat) (v : F32) :
    SameStack s (busAdded c v t) :=
  { cfg := same.cfg, stk := same.stk, ui := same.ui }

variable {c d : Nat} (g : F32)

/-- An add to a channel that holds in `t` what it held in `s`. -/
theorem busAdd_of_bus (hd : t.draws = d) (hc : readOutput t c = readOutput s c) :
    busAdd c g x t = .ok () (busAdded c (busSum s d c g x) t) := by
  rw [busAdd_run, hc, busAdded, busSum, hd]

/-- The adds of a sink: channel `i` of the signal to channel `c + i` of the bus. -/
def busAdds (stereo : Bool) (c : Nat) (g : F32) : M Unit :=
  forChannels stereo fun i => do
    let x ← top i
    busAdd (c + i) g x

section
variable (same : SameStack s t) (hd : t.draws = d) (hc : readOutput t c = readOutput s c)
include same hd hc

theorem busAdds_mono (h : s.stk = x :: rest) :
    busAdds false c g t = .ok () (busAdded c (busSum s d c g x) t) := by
  rw [busAdds, forChannels_false, top_bind, same.stk, h]
  exact busAdd_of_bus g hd hc

/-- The second add starts from the bus as it was before the first. -/
theorem busAdds_stereo (hc' : readOutput t (c + 1) = readOutput s (c + 1))
    (h : s.stk = x :: y :: rest) :
    busAdds true c g t = .ok ()
      (busAdded (c + 1) (busSum s (d + 2) (c + 1) g y) (busAdded c (busSum s d c g x) t)) := by
  have hfirst : (top 0 >>= fun x => busAdd (c + 0) g x) t =
      .ok () (busAdded c (busSum s d c g x) t) := by
    rw [top_bind, same.stk, h]
    exact busAdd_of_bus g hd hc
  rw [busAdds, forChannels_true, bind_ok hfirst, top_bind, (same.busAdded _ _).stk, h]
  refine busAdd_of_bus g (congrArg (· + 2) hd) ?_
  rw [readOutput_busAdded_other _ (Nat.succ_ne_self c), hc']

end

/-! ### What each sink runs once its checks are passed -/

theorem execOut_eq (b : Bool) (gain : Byte) (hu : s.ui < 63) (hdepth : ch b ≤ s.stk.length) :
    exec (.out b gain) s = .next (finishUnit (commandSite s)
      ((busAdds b 0 (readParam (operandsRead [gain] 0 s) 0) >>= fun _ => drop (ch b))
        (operandsRead [gain] 0 s))) := by
  refine (runUnit_below hu [gain] 0 _).trans ?_
  simp only [param_bind, need_bind, operandsRead_stk, hdepth, if_true, busAdds, Nat.zero_add]

theorem execOutaux_eq (b : Bool) (outgain auxgain : Byte) (hu : s.ui < 63)
    (hdepth : ch b ≤ s.stk.length) :
    exec (.outaux b outgain auxgain) s = .next (finishUnit (commandSite s)
      ((busAdds b 0 (readParam (operandsRead [outgain, auxgain] 0 s) 0) >>= fun _ =>
        busAdds b 2 (readParam (operandsRead [outgain, auxgain] 0 s) 1) >>= fun _ =>
        drop (ch b)) (operandsRead [outgain, auxgain] 0 s))) := by
  refine (runUnit_below hu [outgain, auxgain] 0 _).trans ?_
  simp only [param_bind, need_bind, operandsRead_stk, hdepth, if_true, busAdds, Nat.zero_add]

/-- With the depth in order, `aux` tests its channel before it reads its gain. -/
theorem execAux_eq (b : Bool) (gain c : Byte) (hu : s.ui < 63) (hdepth : ch b ≤ s.stk.length) :
    exec (.aux b gain c) s = .next (finishUnit (commandSite s)
      (if channelBad c b then
        .error (.renderFault .channelRange) (operandsRead [gain] 1 s)
      else
        (busAdds b c.toNat (readParam (operandsRead [gain] 1 s) 0) >>= fun _ => drop (ch b))
          (operandsRead [gain] 1 s))) := by
  refine (runUnit_below hu [gain] 1 _).trans ?_
  simp only [param_bind, need_bind, raiseIf_bind, operandsRead_stk, hdepth, if_true, busAdds]

theorem execAux_inRange (b : Bool) (gain c : Byte) (hu : s.ui < 63) (hdepth : ch b ≤ s.stk.length)
    (hc : c.toNat + b.toNat < 8) :
    exec (.aux b gain c) s = .next (finishUnit (commandSite s)
      ((busAdds b c.toNat (readParam (operandsRead [gain] 1 s) 0) >>= fun _ => drop (ch b))
        (operandsRead [gain] 1 s))) := by
  have hgood : channelBad c b = false := decide_eq_false (Nat.not_le.2 hc)
  rw [execAux_eq b gain c hu hdepth, hgood]
  rfl

theorem execAux_channelRange (b : Bool) (gain c : Byte) (hu : s.ui < 63)
    (hdepth : ch b ≤ s.stk.length) (hc : 8 ≤ c.toNat + b.toNat) :
    exec (.aux b gain c) s = .next (faultEntry (.renderFault .channelRange) (commandSite s)
      (operandsRead [gain] 1 s)) := by
  have hbad : channelBad c b = true := decide_eq_true hc
  rw [execAux_eq b gain c hu hdepth, if_pos hbad, finishUnit_error]

/-! ### The adds with the pop behind them -/

section
variable (site : Option Nat) (same : SameStack s t)
include same

/-- The end of a sink: it pops the signal it has added to the bus. -/
theorem finishUnit_drop {front : List F32} (h : s.stk = front ++ rest) :
    finishUnit site (drop front.length t) = { t with stk := rest, ui := s.ui + 1 } := by
  rw [drop_run, finishUnit_ok, same.stk, h, List.drop_left, same.ui]

variable (hbus : ∀ k, readOutput t k = readOutput s k)
include hbus

theorem finishUnit_busAdds_mono (c : Nat) (h : s.stk = x :: rest) :
    finishUnit site ((busAdds false c g >>= fun _ => drop (ch false)) t) =
      { writeOutput t c (busSum s t.draws c g x) with
        stk := rest, draws := t.draws + 2, ui := s.ui + 1 } := by
  rw [bind_ok (busAdds_mono g same rfl (hbus c) h)]
  exact finishUnit_drop site (same.busAdded _ _) (front := [x]) h

theorem finishUnit_busAdds_stereo (c : Nat) (h : s.stk = x :: y :: rest) :
    finishUnit site ((busAdds true c g >>= fun _ => drop (ch true)) t) =
      { writeOutput (writeOutput t c (busSum s t.draws c g x))
          (c + 1) (busSum s (t.draws + 2) (c + 1) g y) with
        stk := rest, draws := t.draws + 4, ui := s.ui + 1 } := by
  rw [bind_ok (busAdds_stereo g same rfl (hbus c) (hbus (c + 1)) h)]
  exact finishUnit_drop site ((same.busAdded _ _).busAdded _ _) (front := [x, y]) h

/-- The second group of `outaux` adds to channels the first has left alone. -/
theorem finishUnit_outaux_mono (ga : F32) (h : s.stk = x :: rest) :
    finishUnit site ((busAdds false 0 g >>= fun _ => busAdds false 2 ga >>= fun _ =>
        drop (ch false)) t) =
      { writeOutput (writeOutput t 0 (busSum s t.draws 0 g x))
          2 (busSum s (t.draws + 2) 2 ga x) with
        stk := rest, draws := t.draws + 4, ui := s.ui + 1 } := by
  have hleft (v : F32) : readOutput (busAdded 0 v t) 2 = readOutput s 2 := by
    rw [readOutput_busAdded_other v (by decide), hbus]
  rw [bind_ok (busAdds_mono g same rfl (hbus 0) h),
    bind_ok (busAdds_mono ga (same.busAdded 0 _) rfl (hleft _) h)]
  exact finishUnit_drop site ((same.busAdded _ _).busAdded _ _) (front := [x]) h

/-- See `finishUnit_outaux_mono`. -/
theorem finishUnit_outaux_stereo (ga : F32) (h : s.stk = x :: y :: rest) :
    finishUnit site ((busAdds true 0 g >>= fun _ => busAdds true 2 ga >>= fun _ =>
        drop (ch true)) t) =
      { writeOutput (writeOutput (writeOutput (writeOutput t
          0 (busSum s t.draws 0 g x)) 1 (busSum s (t.draws + 2) 1 g y))
          2 (busSum s (t.draws + 4) 2 ga x)) 3 (busSum s (t.draws + 6) 3 ga y) with
        stk := rest, draws := t.draws + 8, ui := s.ui + 1 } := by
  have hleft {k : Nat} (h1 : k ≠ 1) (h0 : k ≠ 0) (v w : F32) :
      readOutput (busAdded 1 w (busAdded 0 v t)) k = readOutput s k := by
    rw [readOutput_busAdded_other w h1, readOutput_busAdded_other v h0, hbus]
  have hsame (v w : F32) : SameStack s (busAdded 1 w (busAdded 0 v t)) :=
    (same.busAdded 0 v).busAdded 1 w
  have hsecond (v w : F32) :
      busAdds true 2 ga (busAdded 1 w (busAdded 0 v t)) = .ok ()
        (busAdded 3 (busSum s (t.draws + 6) 3 ga y) (busAdded 2 (busSum s (t.draws + 4) 2 ga x)
          (busAdded 1 w (busAdded 0 v t)))) :=
    busAdds_stereo ga (hsame v w) rfl (hleft (by decide) (by decide) v w)
      (hleft (by decide) (by decide) v w) h
  have hfirst : busAdds true 0 g t = .ok ()
      (busAdded 1 (busSum s (t.draws + 2) 1 g y) (busAdded 0 (busSum s t.draws 0 g x) t)) :=
    busAdds_stereo g same rfl (hbus 0) (hbus 1) h
  rw [bind_ok hfirst, bind_ok (hsecond _ _)]
  refine (finishUnit_drop site (front := [x, y])
    (((hsame _ _).busAdded _ _).busAdded _ _) h).trans ?_
  rw [busAdded_four]

end

end Sys2Proof.Machine

namespace Sys2Proof.Proofs
open Sys2Proof.Machine

/-- Settles O20: one group of adds, each from the bus as the command found it. -/
theorem outResult : Obligations.OutResult := by
  intro gain s hu m g d
  have same : SameStack s m := {}
  have hbus (k : Nat) : readOutput m k = readOutput s k := readOutput_operandsRead [gain] 0 s k
  refine ⟨fun x rest h => ?_, fun x y rest h => ?_, fun b => ?_⟩
  · rw [execOut_eq false gain hu (by simp [h]), finishUnit_busAdds_mono g _ same hbus 0 h]
    rfl
  · rw [execOut_eq true gain hu (by simp [h]), finishUnit_busAdds_stereo g _ same hbus 0 h]
    rfl
  · exact exec_stackUnderflow_of_start (afterOperands_out s b gain) hu

/-- Settles O21: two groups of adds, to channels that are all different. -/
theorem outauxResult : Obligations.OutauxResult := by
  intro outgain auxgain s hu m go ga d
  have same : SameStack s m := {}
  have hbus (k : Nat) : readOutput m k = readOutput s k :=
    readOutput_operandsRead [outgain, auxgain] 0 s k
  refine ⟨fun x rest h => ?_, fun x y rest h => ?_, fun b => ?_⟩
  · rw [execOutaux_eq false outgain auxgain hu (by simp [h]),
      finishUnit_outaux_mono go _ same hbus ga h]
    rfl
  · rw [execOutaux_eq true outgain auxgain hu (by simp [h]),
      finishUnit_outaux_stereo go _ same hbus ga h]
    rfl
  · exact exec_stackUnderflow_of_start (afterOperands_outaux s b outgain auxgain) hu

/-- Settles O22: one group of adds, as in `out`, once the channel has passed its test. -/
theorem auxResult : Obligations.AuxResult := by
  intro gain c s hu m g d k
  have same : SameStack s m := {}
  have hbus (k : Nat) : readOutput m k = readOutput s k := readOutput_operandsRead [gain] 1 s k
  refine ⟨fun x rest h hk => ?_, fun x y rest h hk => ?_, fun b => ?_, fun b => ?_⟩
  · rw [execAux_inRange false gain c hu (by simp [h]) hk,
      finishUnit_busAdds_mono g _ same hbus k h]
    rfl
  · rw [execAux_inRange true gain c hu (by simp [h]) (Nat.succ_lt_succ hk),
      finishUnit_busAdds_stereo g _ same hbus k h]
    rfl
  · exact execAux_channelRange b gain c hu
  · exact exec_stackUnderflow_of_start (afterOperands_aux s b gain c) hu

end Sys2Proof.Proofs
end

section
/-! The transforms: one numeric operation on each channel of the signal, and the two scalings of
`pan` (R480 to R485). -/
namespace Sys2Proof.Machine

variable {s : State} {i : Instr} {x y : F32} {rest : List F32}

/-! ### One operation on every channel -/

theorem mapChannels_mono (f : F32 → Num F32) (h : s.stk = x :: rest) :
    mapChannels false f s = .ok () { s with
      stk := (f x s.draws).1 :: rest, draws := (f x s.draws).2 } := by
  refine (need_of_stk (front := [x]) h _).trans ?_
  simp [h]

/-- The top is transformed first, and the next element takes the draws behind it. -/
theorem mapChannels_stereo (f : F32 → Num F32) (h : s.stk = x :: y :: rest) :
    mapChannels true f s = .ok () { s with
      stk := (f x s.draws).1 :: (f y (f x s.draws).2).1 :: rest
      draws := (f y (f x s.draws).2).2 } := by
  refine (need_of_stk (front := [x, y]) h _).trans ?_
  simp [h]

/-- `i` materialises `ts` and then transforms every channel by `f`. -/
def MapsChannels (i : Instr) (stereo : Bool) (ts : List Byte) (f : F32 → Num F32) (s : State) :
    Prop :=
  exec i s = .next (finishUnit (commandSite s) (mapChannels stereo f (operandsRead ts 0 s)))

section
variable {ts : List Byte} {f : F32 → Num F32}

theorem MapsChannels.mono (hmaps : MapsChannels i false ts f s) (h : s.stk = x :: rest) {d' : Nat}
    {x' : F32} (hx : f x (operandsRead ts 0 s).draws = (x', d')) :
    exec i s = .next { operandsRead ts 0 s with
      stk := x' :: rest, draws := d', ui := s.ui + 1 } := by
  rw [hmaps, mapChannels_mono f ((operandsRead_stk s ts 0).trans h), hx, finishUnit_ok,
    operandsRead_ui]

theorem MapsChannels.stereo (hmaps : MapsChannels i true ts f s) (h : s.stk = x :: y :: rest)
    {d' d'' : Nat} {x' y' : F32} (hx : f x (operandsRead ts 0 s).draws = (x', d'))
    (hy : f y d' = (y', d'')) :
    exec i s = .next { operandsRead ts 0 s with
      stk := x' :: y' :: rest, draws := d'', ui := s.ui + 1 } := by
  rw [hmaps, mapChannels_stereo f ((operandsRead_stk s ts 0).trans h), hx, hy, finishUnit_ok,
    operandsRead_ui]

end

section
variable (b : Bool) (t0 : Byte) (hu : s.ui < 63)
include hu

theorem execGain_maps : MapsChannels (.gain b t0) b [t0]
    (fun x => fmul x (readParam (operandsRead [t0] 0 s) 0)) s :=
  runUnit_below hu [t0] 0 _

theorem execInvgain_maps : MapsChannels (.invgain b t0) b [t0]
    (fun x => fdiv x (readParam (operandsRead [t0] 0 s) 0)) s :=
  runUnit_below hu [t0] 0 _

theorem execClip_maps : MapsChannels (.clip b) b [] (fun x => pure (clipValue x)) s :=
  runUnit_below hu [] 0 _

theorem execCrush_maps : MapsChannels (.crush b t0) b [t0]
    (crushValue s.cfg.roundTie (readParam (operandsRead [t0] 0 s) 0)) s := by
  rw [← operandsRead_cfg s [t0] 0]
  exact runUnit_below hu [t0] 0 _

theorem execDistort_maps : MapsChannels (.distort b t0) b [t0]
    (fun x => waveshape x (readParam (operandsRead [t0] 0 s) 0)) s :=
  runUnit_below hu [t0] 0 _

end

/-! ### `clip` -/

theorem flt_of_isNaN_left {x : F32} (y : F32) (h : isNaN x = true) : flt x y = false := by
  simp [flt, h]

theorem flt_of_isNaN_right (x : F32) {y : F32} (h : isNaN y = true) : flt x y = false := by
  simp [flt, h]

/-- The comparison is transitive, as it is on the exact values. -/
theorem flt_trans {x y z : F32} (h : flt x y = true) (h' : flt y z = true) : flt x z = true := by
  simp only [flt, Bool.and_eq_true, decide_eq_true_eq] at h h' ⊢
  obtain ⟨⟨hx, -⟩, hxy⟩ := h
  obtain ⟨⟨-, hz⟩, hyz⟩ := h'
  exact ⟨⟨hx, hz⟩, hxy.trans hyz⟩

theorem clipValue_of_gt (h : flt f1 x = true) : clipValue x = f1 := if_pos h

theorem clipValue_of_lt (h : flt x fNeg1 = true) : clipValue x = fNeg1 := by
  have hgt : ¬ flt f1 x = true := fun h1 => absurd (flt_trans h1 h) (by decide)
  rw [clipValue, if_neg hgt, if_pos h]

theorem clipValue_of_between (h1 : flt f1 x = false) (h2 : flt x fNeg1 = false) :
    clipValue x = x := by
  rw [clipValue, h1, h2]
  rfl

/-! ### `crush` -/

theorem crushValue_run (tie : RoundTie) (q x : F32) (d : Nat) :
    crushValue tie q x d = (mulAt (d + 1) (roundF tie (divAt d x q)) q, d + 2) := (rfl)

/-! ### `pan` -/

/-- The end of `pan`: the top is scaled by `p` and the next element by `1 - p`. -/
def panScale (p : F32) : M Unit := do
  need 2
  let l ← top 0
  let l' ← num (fmul l p)
  setTop 0 l'
  let r ← top 1
  let r' ← num do fmul r (← fsub f1 p)
  setTop 1 r'

theorem panScale_run (p : F32) (h : s.stk = x :: y :: rest) :
    panScale p s = .ok () { s with
      stk := mulAt s.draws x p :: mulAt (s.draws + 2) y (subAt (s.draws + 1) f1 p) :: rest
      draws := s.draws + 3 } := by
  refine (need_of_stk (front := [x, y]) h _).trans ?_
  simp [h]

theorem execPan_stereo (p : Byte) (hu : s.ui < 63) :
    exec (.pan true p) s = .next (finishUnit (commandSite s)
      (panScale (readParam (operandsRead [p] 0 s) 0) (operandsRead [p] 0 s))) :=
  runUnit_below hu [p] 0 _

/-- The mono form pushes its signal once more and then runs as the stereo form does. -/
theorem execPan_mono (p : Byte) (hu : s.ui < 63) (h : s.stk = x :: rest) :
    exec (.pan false p) s = .next (finishUnit (commandSite s)
      ((push x >>= fun _ => panScale (readParam (operandsRead [p] 0 s) 0))
        (operandsRead [p] 0 s))) := by
  have hstk : (operandsRead [p] 0 s).stk = [x] ++ rest := (operandsRead_stk s [p] 0).trans h
  refine (runUnit_below hu [p] 0 _).trans (congrArg (Host.Outcome.next ∘ finishUnit _) ?_)
  refine (need_of_stk hstk _).trans ?_
  rw [top_bind, hstk]
  rfl

/-! ### The integer conversions (R17) -/

/-- The rounded magnitude behind `RoundI`, of a magnitude in units of 2^-149. -/
def roundMagnitude (tie : RoundTie) (m : Nat) : Nat :=
  if 2 * (m % 2 ^ 149) < 2 ^ 149 then m / 2 ^ 149
  else if 2 ^ 149 < 2 * (m % 2 ^ 149) then m / 2 ^ 149 + 1
  else match tie with
    | .awayFromZero => m / 2 ^ 149 + 1
    | .toEven => m / 2 ^ 149 + m / 2 ^ 149 % 2

theorem roundInt_eq_signed (tie : RoundTie) (x : F32) :
    roundInt tie x = signed (isNeg x) (roundMagnitude tie (magnitude x)) := (rfl)

/-- The rounded magnitude is within a half of the magnitude; where it is a half away it is above it,
or even, as the tie rule says. -/
theorem roundMagnitude_error (tie : RoundTie) (m : Nat) :
    2 * ((m : Int) - roundMagnitude tie m * 2 ^ 149).natAbs ≤ 2 ^ 149 ∧
      (2 * ((m : Int) - roundMagnitude tie m * 2 ^ 149).natAbs = 2 ^ 149 →
        (tie = .awayFromZero → m < roundMagnitude tie m * 2 ^ 149) ∧
        (tie = .toEven → roundMagnitude tie m % 2 = 0)) := by
  unfold roundMagnitude
  split_ifs with hlow hhigh
  · exact ⟨by omega, by omega⟩
  · exact ⟨by omega, by omega⟩
  · cases tie with
    | awayFromZero =>
      dsimp only
      exact ⟨by omega, fun _ => ⟨by omega, nofun⟩⟩
    | toEven =>
      dsimp only
      exact ⟨by omega, fun _ => ⟨nofun, by omega⟩⟩

/-- The same of the signed value: `RoundI` is within a half of it, and of a half away the outer
integer, or even, as P_ROUND_TIE says. -/
theorem roundInt_error (tie : RoundTie) (x : F32) :
    2 * (scaled x - roundInt tie x * 2 ^ 149).natAbs ≤ 2 ^ 149 ∧
      (2 * (scaled x - roundInt tie x * 2 ^ 149).natAbs = 2 ^ 149 →
        (tie = .awayFromZero → (scaled x).natAbs < (roundInt tie x).natAbs * 2 ^ 149) ∧
        (tie = .toEven → roundInt tie x % 2 = 0)) := by
  obtain ⟨herr, htie⟩ := roundMagnitude_error tie (magnitude x)
  rw [scaled_eq_signed, roundInt_eq_signed, natAbs_signed, natAbs_signed]
  cases isNeg x with
  | false =>
    simp only [signed_false]
    exact ⟨herr, fun heq => (htie heq).imp id fun heven ht => by have := heven ht; omega⟩
  | true =>
    simp only [signed_true]
    exact ⟨by omega, fun heq =>
      (htie (by omega)).imp id fun heven ht => by have := heven ht; omega⟩

/-- R17: `RoundI` is a nearest integer. -/
theorem roundInt_nearest (tie : RoundTie) (x : F32) (k : Int) :
    (scaled x - roundInt tie x * 2 ^ 149).natAbs ≤ (scaled x - k * 2 ^ 149).natAbs := by
  obtain ⟨herr, -⟩ := roundInt_error tie x
  omega

/-- R17, P_ROUND_TIE: of two nearest integers `RoundI` is the one away from zero, or the even
one. -/
theorem roundInt_tie (tie : RoundTie) (x : F32) {k : Int} (hne : k ≠ roundInt tie x)
    (heq : (scaled x - k * 2 ^ 149).natAbs = (scaled x - roundInt tie x * 2 ^ 149).natAbs) :
    (tie = .awayFromZero → k.natAbs < (roundInt tie x).natAbs) ∧
      (tie = .toEven → roundInt tie x % 2 = 0) := by
  obtain ⟨herr, htie⟩ := roundInt_error tie x
  obtain ⟨haway, heven⟩ := htie (by omega)
  refine ⟨fun ht => ?_, heven⟩
  have hbelow := haway ht
  omega

/-- An integer less than 1 away from a finite value is a binary32: below 2^24 every integer is one,
and from there on the values are integers themselves. -/
theorem ofInt_exact_of_near (hx : isFinite x = true) {n : Int}
    (hnear : (scaled x - n * 2 ^ 149).natAbs < 2 ^ 149) :
    isFinite (ofInt n) = true ∧ scaled (ofInt n) = n * 2 ^ 149 := by
  obtain ⟨m, e, hm, he, hmag⟩ := exists_magnitude_eq hx
  rw [← natAbs_scaled] at hmag
  obtain ⟨k, j, hk, hj, hn⟩ :
      ∃ k j, k < 2 ^ 24 ∧ j ≤ 253 ∧ n.natAbs * 2 ^ 149 = k * 2 ^ j * 1 := by
    rcases Nat.lt_or_ge e 149 with hsmall | hbig
    · have hpow : 2 ^ e ≤ 2 ^ 148 := Nat.pow_le_pow_right (by decide) (by omega)
      have hlt : m * 2 ^ e < 2 ^ 24 * 2 ^ 148 :=
        Nat.mul_lt_mul_of_lt_of_le hm hpow (by positivity)
      exact ⟨n.natAbs, 149, by omega, by decide, by omega⟩
    · refine ⟨m, e, hm, he, ?_⟩
      have hint : (scaled x).natAbs = m * 2 ^ (e - 149) * 2 ^ 149 := by
        rw [hmag, Nat.mul_assoc, ← pow_add, Nat.sub_add_cancel hbig]
      omega
  obtain ⟨hfin, hres⟩ := roundRat_exact (decide (n < 0)) Nat.one_pos hk hj hn
  refine ⟨hfin, ?_⟩
  rw [ofInt, scaled_eq_signed, isNeg_roundRat, hres, ← Nat.mul_one (k * 2 ^ j), ← hn,
    signed_mul_two_pow, signed_natAbs]

/-- R17: `RoundF` of a finite value is `RoundI` of it, exactly. -/
theorem roundF_exact (tie : RoundTie) (hx : isFinite x = true) :
    isFinite (roundF tie x) = true ∧ roundF tie x = ofInt (roundInt tie x) ∧
      scaled (roundF tie x) = roundInt tie x * 2 ^ 149 := by
  have hround : roundF tie x = ofInt (roundInt tie x) := if_pos hx
  have hnear : (scaled x - roundInt tie x * 2 ^ 149).natAbs < 2 ^ 149 := by
    obtain ⟨herr, -⟩ := roundInt_error tie x
    omega
  obtain ⟨hfin, hval⟩ := ofInt_exact_of_near hx hnear
  exact ⟨hround ▸ hfin, hround, hround ▸ hval⟩

theorem truncInt_eq_signed (x : F32) :
    truncInt x = signed (isNeg x) (magnitude x / 2 ^ 149) := by
  rw [truncInt, scaled_eq_signed]
  cases isNeg x with
  | false => rfl
  | true => exact Int.neg_tdiv ..

/-- R17: `TruncI` keeps the sign and discards the fraction of the magnitude. -/
theorem truncInt_toward_zero (x : F32) :
    (truncInt x).natAbs * 2 ^ 149 ≤ (scaled x).natAbs ∧
      (scaled x).natAbs < ((truncInt x).natAbs + 1) * 2 ^ 149 ∧ 0 ≤ truncInt x * scaled x := by
  have hsame : truncInt x * scaled x = (magnitude x / 2 ^ 149 * magnitude x : Nat) := by
    rw [truncInt_eq_signed, scaled_eq_signed, signed_mul_signed, bne_self_eq_false, signed_false]
  rw [hsame, truncInt_eq_signed, natAbs_signed, natAbs_scaled]
  exact ⟨by omega, by omega, Int.natCast_nonneg _⟩

/-- R17: `Floor` of a finite value is the largest integer not greater. -/
theorem floorNumber_exact (hx : isFinite x = true) :
    isFinite (floorNumber x) = true ∧
      scaled (floorNumber x) = scaled x / 2 ^ 149 * 2 ^ 149 := by
  rw [floorNumber, hx, Bool.not_true, Bool.false_or]
  split
  · rename_i hint
    rw [beq_iff_eq, ← natAbs_scaled] at hint
    exact ⟨hx, by omega⟩
  · exact ofInt_exact_of_near hx (by omega)

theorem fabs_fields (x : F32) :
    isNeg (fabs x) = false ∧ expField (fabs x) = expField x ∧ fracField (fabs x) = fracField x := by
  have hmod : (fabs x).toNat = x.toNat % 2 ^ 31 := by
    rw [fabs, BitVec.toNat_and]
    exact Nat.and_two_pow_sub_one_eq_mod x.toNat 31
  obtain ⟨hneg, hexp, hfrac⟩ := fields_of_toNat (b := x.toNat % 2 ^ 31)
    (Nat.mod_lt _ (by decide)) false (hmod.trans (Nat.zero_add _).symm)
  refine ⟨hneg, hexp.trans ?_, hfrac.trans ?_⟩
  · rw [expField]
    omega
  · rw [fracField]
    omega

theorem magnitude_fabs (x : F32) : magnitude (fabs x) = magnitude x := by
  obtain ⟨-, hexp, hfrac⟩ := fabs_fields x
  rw [magnitude, hexp, hfrac, magnitude]

end Sys2Proof.Machine

namespace Sys2Proof.Proofs
open Sys2Proof.Machine

/-- Settles O25: both map one value computation over the channels; the conversions to integers, by
the exact value of what they round. -/
theorem crushDistortResult : Obligations.CrushDistortResult := by
  refine ⟨fun tie x hx => ⟨roundInt_nearest tie x, fun k => roundInt_tie tie x,
    roundF_exact tie hx, truncInt_toward_zero x, ?_⟩, fun tie x => ⟨fun hx => ?_, ?_, ?_⟩, ?_⟩
  · obtain ⟨hfin, hval⟩ := floorNumber_exact hx
    exact ⟨hfin, scaled x / 2 ^ 149, hval, by omega, by omega⟩
  · exact ⟨by rw [roundF, hx]; rfl, by rw [floorNumber, hx]; rfl⟩
  · exact (fabs_fields x).1
  · exact fun _ => magnitude_fabs x
  · intro q s hu m p d crushed
    have hcrush (b : Bool) := execCrush_maps b q hu
    have hdistort (b : Bool) := execDistort_maps b q hu
    refine ⟨fun x rest h => ⟨?_, ?_⟩, fun x y rest h => ⟨?_, ?_⟩, fun b h => ⟨?_, ?_⟩⟩
    · exact (hcrush false).mono h (crushValue_run ..)
    · exact (hdistort false).mono h (waveshape_run ..)
    · exact (hcrush true).stereo h (crushValue_run ..) (crushValue_run ..)
    · exact (hdistort true).stereo h (waveshape_run ..) (waveshape_run ..)
    · exact exec_stackUnderflow_of_start (afterOperands_crush s b q) hu h
    · exact exec_stackUnderflow_of_start (afterOperands_distort s b q) hu h

/-- Settles O23: `gain` and `invgain` are one handler over two operations. -/
theorem gainInvgainResult : Obligations.GainInvgainResult := by
  intro g s hu m p d
  have hgain (b : Bool) := execGain_maps b g hu
  have hinvgain (b : Bool) := execInvgain_maps b g hu
  refine ⟨fun x rest h => ⟨?_, ?_⟩, fun x y rest h => ⟨?_, ?_⟩, fun b h => ⟨?_, ?_⟩⟩
  · exact (hgain false).mono h (fmul_run ..)
  · exact (hinvgain false).mono h (fdiv_run ..)
  · exact (hgain true).stereo h (fmul_run ..) (fmul_run ..)
  · exact (hinvgain true).stereo h (fdiv_run ..) (fdiv_run ..)
  · exact exec_stackUnderflow_of_start (afterOperands_gain s b g) hu h
  · exact exec_stackUnderflow_of_start (afterOperands_invgain s b g) hu h

/-- Settles O24: the two bounds exclude each other, and a NaN meets neither. -/
theorem clipResult : Obligations.ClipResult := by
  intro s hu
  refine ⟨fun x => ⟨clipValue_of_gt, clipValue_of_lt, clipValue_of_between, fun hnan => ?_⟩,
    fun x rest h => ?_, fun x y rest h => ?_, fun b => ?_⟩
  · exact clipValue_of_between (flt_of_isNaN_right f1 hnan) (flt_of_isNaN_left fNeg1 hnan)
  · exact (execClip_maps false hu).mono h (num_pure ..)
  · exact (execClip_maps true hu).stereo h (num_pure ..) (num_pure ..)
  · exact exec_stackUnderflow (afterOperands_clip s b) hu

/-- Settles O26: the mono form is the push of its signal and then the stereo form. -/
theorem panResult : Obligations.PanResult := by
  intro p s hu m q d panned
  have same : SameStack s m := {}
  refine ⟨fun x rest h hroom => ?_, fun hne hfull => ?_, fun x y rest h => ?_, fun b => ?_⟩
  · have hstk : ({ m with stk := x :: s.stk } : State).stk = x :: x :: rest := congrArg (x :: ·) h
    rw [execPan_mono p hu h, bind_ok (push_room_of_same same x hroom), panScale_run q hstk]
    rfl
  · obtain ⟨x, rest, h⟩ := List.exists_cons_of_ne_nil hne
    rw [execPan_mono p hu h, finishUnit_push_then_full same x _ hfull]
  · rw [execPan_stereo p hu, panScale_run q (same.stk.trans h)]
    rfl
  · exact exec_stackUnderflow_of_start (afterOperands_pan s b p) hu

end Sys2Proof.Proofs
end

section
/-! The envelope's stage machine: one sample of each stage, and the comparison that ends Attack
(R500). -/
namespace Sys2Proof.Machine

/-! ### One sample of each stage -/

section
variable (a dc su re level : F32) (d : Nat) {stage : F32}

theorem envelopeNext_attack (h : feq stage stageAttack = true) :
    envelopeNext a dc su re stage level d =
      (if fle f1 (addAt (d + 1) level (exp2F (mulAt d fNeg24 a))) then (f1, f1)
        else (stage, addAt (d + 1) level (exp2F (mulAt d fNeg24 a))), d + 2) := by
  rw [envelopeNext, if_pos h]
  rfl

theorem envelopeNext_decay (hattack : ¬ feq stage stageAttack = true)
    (h : feq stage stageDecay = true) :
    envelopeNext a dc su re stage level d =
      ((stage, if fle (subAt (d + 1) level (exp2F (mulAt d fNeg24 dc))) su then su
        else subAt (d + 1) level (exp2F (mulAt d fNeg24 dc))), d + 2) := by
  rw [envelopeNext, if_neg hattack, if_pos h]
  rfl

theorem envelopeNext_release (hattack : ¬ feq stage stageAttack = true)
    (hdecay : ¬ feq stage stageDecay = true) (h : feq stage stageRelease = true) :
    envelopeNext a dc su re stage level d =
      ((stage, if flt (subAt (d + 1) level (exp2F (mulAt d fNeg24 re))) f0 then f0
        else subAt (d + 1) level (exp2F (mulAt d fNeg24 re))), d + 2) := by
  rw [envelopeNext, if_neg hattack, if_neg hdecay, if_pos h]
  rfl

/-- Sustain, and every pattern that is no stage code, keeps its level. -/
theorem envelopeNext_otherwise (hattack : ¬ feq stage stageAttack = true)
    (hdecay : ¬ feq stage stageDecay = true) (hrelease : ¬ feq stage stageRelease = true) :
    envelopeNext a dc su re stage level d = ((stage, level), d) := by
  rw [envelopeNext, if_neg hattack, if_neg hdecay, if_neg hrelease]
  rfl

theorem envelopeNext_keeps_stage (hattack : ¬ feq stage stageAttack = true) :
    (envelopeNext a dc su re stage level d).1.1 = stage := by
  by_cases hdecay : feq stage stageDecay = true
  · rw [envelopeNext_decay _ _ _ _ _ _ hattack hdecay]
  · by_cases hrelease : feq stage stageRelease = true
    · rw [envelopeNext_release _ _ _ _ _ _ hattack hdecay hrelease]
    · rw [envelopeNext_otherwise _ _ _ _ _ _ hattack hdecay hrelease]

/-- Attack stays, or goes to Decay at level 1. -/
theorem envelopeNext_stage_cases : (envelopeNext a dc su re stage level d).1.1 = stage ∨
    feq stage stageAttack = true ∧ (envelopeNext a dc su re stage level d).1 = (f1, f1) := by
  by_cases hattack : feq stage stageAttack = true
  · rw [envelopeNext_attack _ _ _ _ _ _ hattack]
    split
    · exact .inr ⟨hattack, rfl⟩
    · exact .inl rfl
  · exact .inl (envelopeNext_keeps_stage _ _ _ _ _ _ hattack)

end

/-! ### Rate 1 ends Attack at once -/

theorem fle_one_of_magnitude {x : F32} (hnan : isNaN x = false) (hneg : isNeg x = false)
    (hmag : 2 ^ 149 ≤ magnitude x) : fle f1 x = true := by
  rw [fle, hnan, show isNaN f1 = false by decide, show scaled f1 = 2 ^ 149 by decide,
    scaled_eq_signed, hneg, signed_false]
  simp only [Bool.not_false, Bool.and_self, Bool.true_and, decide_eq_true_eq]
  omega

theorem fle_one_of_isInf {x : F32} (hinf : isInf x = true) (hnan : isNaN x = false)
    (hneg : isNeg x = false) : fle f1 x = true :=
  fle_one_of_magnitude hnan hneg (by rw [magnitude_of_isInf hinf]; decide)

/-- A rounded magnitude of at least 1 is at least 1. -/
theorem fle_one_roundRat {n : Nat} (h : 2 ^ 149 ≤ n) : fle f1 (roundRat false n 1) = true := by
  have hone : magnitude f1 = 2 ^ 149 := by decide
  cases hfin : isFinite (roundRat false n 1) with
  | true =>
    refine fle_one_of_magnitude (isNaN_roundRat ..) (isNeg_roundRat ..) ?_
    rw [← hone]
    exact le_magnitude_roundRat Nat.one_pos hfin (by rwa [hone, Nat.mul_one])
  | false =>
    have hinf : isInf (roundRat false n 1) = true := by
      by_contra hinf
      rw [isFinite_of_not (isNaN_roundRat ..) (by simpa using hinf)] at hfin
      cases hfin
    exact fle_one_of_isInf hinf (isNaN_roundRat ..) (isNeg_roundRat ..)

/-- A level that is neither negative nor a NaN reaches 1 when 1 is added to it. -/
theorem fle_one_addAt_one {level : F32} (hnan : isNaN level = false) (hneg : isNeg level = false)
    (d : Nat) : fle f1 (addAt d level f1) = true := by
  cases hinf : isInf level with
  | true =>
    have hsum : addAt d level f1 = level := by
      simp [addAt, hnan, hinf, show isNaN f1 = false by decide, show isInf f1 = false by decide]
    rw [hsum]
    exact fle_one_of_isInf hinf hnan hneg
  | false =>
    have hexact : scaled level + scaled f1 = (magnitude level + 2 ^ 149 : Nat) := by
      rw [scaled_eq_signed level, hneg, signed_false, show scaled f1 = 2 ^ 149 by decide]
      norm_cast
    have hpos : ¬ ((magnitude level + 2 ^ 149 : Nat) : Int) = 0 := by omega
    have hsign : ¬ ((magnitude level + 2 ^ 149 : Nat) : Int) < 0 := by omega
    rw [addAt_finite (isFinite_of_not hnan hinf) (by decide), hexact, if_neg hpos,
      decide_eq_false hsign, Int.natAbs_natCast]
    exact fle_one_roundRat (Nat.le_add_left ..)

/-- A rate parameter of +0.0 is rate 1: `P_EXP2` is 1 at a zero (R16, R20). -/
theorem exp2F_mulAt_zero (d : Nat) : exp2F (mulAt d fNeg24 f0) = f1 := by
  have hzero : mulAt d fNeg24 f0 = 0x80000000 :=
    mulAt_eq (by decide) (by decide) (by decide) (by decide) (by decide) d
  rw [hzero]
  exact if_pos (.inr rfl)

/-! ### A Release level -/

theorem flt_clamp_zero (x : F32) : flt (if flt x f0 then f0 else x) f0 = false := by
  cases h : flt x f0 with
  | true => exact (by decide : flt f0 f0 = false)
  | false => exact h

end Sys2Proof.Machine

namespace Sys2Proof.Proofs
open Sys2Proof.Machine

/-- Settles O28, stage by stage. -/
theorem envelopeStages : Obligations.EnvelopeStages := by
  intro a dc su re level d rate up down fall
  have hattack := envelopeNext_attack a dc su re level d (stage := f0) (by decide)
  have hrelease := envelopeNext_release a dc su re level d (stage := f3)
    (by decide) (by decide) (by decide)
  refine ⟨hattack, ?_, ?_, hrelease,
    fun stage => envelopeNext_stage_cases a dc su re level d, fun hnan hneg => ?_, ?_⟩
  · exact envelopeNext_decay _ _ _ _ _ _ (by decide) (by decide)
  · exact envelopeNext_otherwise _ _ _ _ _ _ (by decide) (by decide) (by decide)
  · rw [envelopeNext_attack _ _ _ _ _ _ (by decide), exp2F_mulAt_zero,
      if_pos (fle_one_addAt_one hnan hneg (d + 1))]
  · rw [hrelease]
    exact flt_clamp_zero _

end Sys2Proof.Proofs
end

section
/-! The modulators on the state: the writes of their slots and the values they leave on the stack
(R500 to R503). -/
namespace Sys2Proof.Machine

variable {s t : State} {x y : F32} {rest : List F32}

/-! ### The slots of one unit -/

section
variable {v : Fin 32} {u k : Nat}

theorem readState_writeState_same (x : F32)
    (hwf : Memory.wf unitWords (s.voices.get v).units = true) :
    readState (writeState s v u k x) v u k = x :=
  readWord_writeWord_same _ x hwf

theorem readState_writeState_other (x : F32) {j : Nat} (hne : j ≠ k)
    (hwf : Memory.wf unitWords (s.voices.get v).units = true) :
    readState (writeState s v u k x) v u j = readState s v u j :=
  readWord_writeWord_otherKey v x (by simp only [stateKey]; omega) hwf

theorem wf_writeState (x : F32) (hu : u < 63) (hk : k < 8)
    (hwf : Memory.wf unitWords (s.voices.get v).units = true) :
    Memory.wf unitWords ((writeState s v u k x).voices.get v).units = true :=
  wf_writeWord x (stateKey_lt hu (by omega)) hwf

end

/-- `t` executes unit `u` of voice `v`, whose words are in canonical form. -/
structure OwnUnit (v : Fin 32) (u : Nat) (t : State) : Prop where
  vi : t.vi = v
  ui : t.ui = u
  below : u < 63
  wf : Memory.wf unitWords (t.voices.get v).units = true

theorem OwnUnit.operandsRead (hu : s.ui < 63)
    (hwf : Memory.wf unitWords (s.voices.get s.vi).units = true) {ts : List Byte} (n : Nat)
    (hts : ts.length ≤ 8) : OwnUnit s.vi s.ui (operandsRead ts n s) where
  vi := operandsRead_vi s ts n
  ui := operandsRead_ui s ts n
  below := hu
  wf := wf_operandsRead n hu hts hwf

section
variable {v : Fin 32} {u k k' j : Nat} (own : OwnUnit v u t) (x y : F32)
include own

theorem OwnUnit.drawn (d : Nat) : OwnUnit v u { t with draws := d } :=
  { vi := own.vi, ui := own.ui, below := own.below, wf := own.wf }

theorem OwnUnit.signal (stk : List F32) (d : Nat) :
    OwnUnit v u { t with stk := stk, draws := d } :=
  { vi := own.vi, ui := own.ui, below := own.below, wf := own.wf }

theorem OwnUnit.writeState (hk : k < 8) : OwnUnit v u (writeState t v u k x) :=
  { vi := own.vi, ui := own.ui, below := own.below, wf := wf_writeState x own.below hk own.wf }

/-- A unit that writes two of its slots reads any other as before. -/
theorem OwnUnit.readState_writeTwo (hk : k < 8) (hj : j ≠ k) (hj' : j ≠ k') :
    readState (Machine.writeState (Machine.writeState t v u k x) v u k' y) v u j =
      readState t v u j := by
  rw [readState_writeState_other y hj' (own.writeState x hk).wf,
    readState_writeState_other x hj own.wf]

end

theorem SameStack.drawn (same : SameStack s t) (d : Nat) : SameStack s { t with draws := d } :=
  { cfg := same.cfg, stk := same.stk, ui := same.ui }

theorem SameStack.operandsRead (s : State) (ts : List Byte) (n : Nat) :
    SameStack s (operandsRead ts n s) :=
  { cfg := operandsRead_cfg s ts n, stk := operandsRead_stk s ts n, ui := operandsRead_ui s ts n }

/-! ### `envelope` -/

/-- The push of a product that is formed for it. -/
def pushProduct (x g : F32) : M Unit := do
  let y ← num (fmul x g)
  push y

section
variable {site : Option Nat} (same : SameStack s t) (g : F32)
include same

theorem pushProduct_room (hroom : s.stk.length < stackCap s) :
    pushProduct x g t = .ok () { t with
      stk := mulAt t.draws x g :: s.stk, draws := t.draws + 1 } :=
  push_room_of_same (same.drawn (t.draws + 1)) (mulAt t.draws x g) hroom

theorem pushProduct_full (hfull : stackCap s ≤ s.stk.length) :
    pushProduct x g t = .error (.renderFault .stackOverflow) { t with draws := t.draws + 1 } :=
  push_full_of_same (same.drawn (t.draws + 1)) (mulAt t.draws x g) hfull

/-- The state after a first product that found room, as the second one meets it. -/
theorem SameStack.product : SameStack { s with stk := mulAt t.draws x g :: s.stk }
    { t with stk := mulAt t.draws x g :: s.stk, draws := t.draws + 1 } :=
  (same.drawn (t.draws + 1)).pushed _

theorem finishUnit_product_room (hroom : s.stk.length < stackCap s) :
    finishUnit site (forChannels false (fun _ => pushProduct x g) t) = { t with
      stk := mulAt t.draws x g :: s.stk, draws := t.draws + 1, ui := s.ui + 1 } := by
  rw [forChannels_false, pushProduct_room same g hroom, finishUnit_ok, same.ui]

theorem finishUnit_products_room (hroom : s.stk.length + 1 < stackCap s) :
    finishUnit site (forChannels true (fun _ => pushProduct x g) t) = { t with
      stk := mulAt (t.draws + 1) x g :: mulAt t.draws x g :: s.stk
      draws := t.draws + 2, ui := s.ui + 1 } := by
  rw [forChannels_true, bind_ok (pushProduct_room same g (Nat.lt_of_succ_lt hroom)),
    pushProduct_room (same.product g) g hroom, finishUnit_ok, same.ui]

theorem finishUnit_products_roomForOne (hone : s.stk.length + 1 = stackCap s) :
    finishUnit site (forChannels true (fun _ => pushProduct x g) t) =
      faultEntry (.renderFault .stackOverflow) site { t with
        stk := mulAt t.draws x g :: s.stk, draws := t.draws + 2 } := by
  rw [forChannels_true, bind_ok (pushProduct_room same g (Nat.lt_of_succ_le hone.le)),
    pushProduct_full (same.product g) g hone.ge, finishUnit_error]

theorem finishUnit_products_full (b : Bool) (hfull : stackCap s ≤ s.stk.length) :
    finishUnit site (forChannels b (fun _ => pushProduct x g) t) =
      faultEntry (.renderFault .stackOverflow) site { t with draws := t.draws + 1 } := by
  have hfirst := pushProduct_full (x := x) same g hfull
  cases b
  · rw [forChannels_false, hfirst, finishUnit_error]
  · rw [forChannels_true, bind_error hfirst, finishUnit_error]

end

/-- The state in which `envelope` pushes: the stage and the level of `n` are in slots 0 and 1 of the
executing unit of `s`, and `t` is left at the draw of `n`. -/
def envelopeStored (s t : State) (n : (F32 × F32) × Nat) : State :=
  writeState (writeState { t with draws := n.2 } s.vi s.ui 0 n.1.1) s.vi s.ui 1 n.1.2

theorem SameStack.envelopeStored (same : SameStack s t) (n : (F32 × F32) × Nat) :
    SameStack s (envelopeStored s t n) :=
  { cfg := same.cfg, stk := same.stk, ui := same.ui }

/-- Up to its pushes `envelope` runs the stage machine once and stores what it gives. -/
theorem execEnvelope_eq (b : Bool) (a dc su re g : Byte) (hu : s.ui < 63)
    (ht : operandsRead [a, dc, su, re, g] 0 s = t) {n : (F32 × F32) × Nat}
    (hn : envelopeNext (readParam t 0) (readParam t 1) (readParam t 2) (readParam t 3)
      (if (s.voices.get s.vi).release then f3 else readState t s.vi s.ui 0)
      (readState t s.vi s.ui 1) t.draws = n) :
    exec (.envelope b a dc su re g) s = .next (finishUnit (commandSite s)
      (forChannels b (fun _ => pushProduct n.1.2 (readParam t 4)) (envelopeStored s t n))) := by
  have hvi : t.vi = s.vi := by rw [← ht, operandsRead_vi]
  have hui : t.ui = s.ui := by rw [← ht, operandsRead_ui]
  have hrelease : releaseFlag t = (s.voices.get s.vi).release := by
    rw [releaseFlag, currentVoice, hvi, ← ht, operandsRead_release]
  refine (runUnit_below hu [a, dc, su, re, g] 0 _).trans ?_
  rw [ht, readAll_bind, ownState_bind, ownState_bind, num_then, stageNow, stageRelease, hrelease,
    hvi, hui, hn, setOwnState_bind, setOwnState_bind, envelopeStored, writeState_vi,
    writeState_ui, hvi, hui]
  rfl

/-! ### `hold` -/

/-- The phase and the held value after one sample of `hold`, from those before it (R501). -/
def holdNext (freq2 x phase held : F32) (d : Nat) : F32 × F32 :=
  (if fle (subAt d phase freq2) f0 then addAt (d + 1) (subAt d phase freq2) f1
    else subAt d phase freq2,
  if fle (subAt d phase freq2) f0 then x else held)

/-- The state with the phase and the held value `n` in the slots of channel `i`. -/
def holdStored (v : Fin 32) (u i : Nat) (n : F32 × F32) (t : State) : State :=
  writeState (writeState t v u (2 + i) n.2) v u i n.1

section
variable {v : Fin 32} {u i : Nat} (own : OwnUnit v u t) (n : F32 × F32)
include own

theorem OwnUnit.holdStored (hi : i < 2) : OwnUnit v u (holdStored v u i n t) :=
  (own.writeState n.2 (by omega)).writeState n.1 (by omega)

theorem OwnUnit.readState_holdStored_held (hi : i < 2) :
    readState (Machine.holdStored v u i n t) v u (2 + i) = n.2 := by
  rw [Machine.holdStored,
    readState_writeState_other n.1 (by omega) (own.writeState n.2 (by omega)).wf,
    readState_writeState_same n.2 own.wf]

theorem OwnUnit.readState_holdStored_other {j : Nat} (hi : i < 2) (hj : j ≠ i)
    (hj' : j ≠ 2 + i) :
    readState (Machine.holdStored v u i n t) v u j = readState t v u j :=
  own.readState_writeTwo n.2 n.1 (by omega) hj' hj

end

section
variable {v : Fin 32} {u : Nat} (own : OwnUnit v u t) (freq2 : F32) {n n' : F32 × F32}
include own

/-- The raised phase takes its draw whether it is used or not. -/
theorem holdChannel_run {i : Nat} (hi : i < 2) (hx : t.stk.getD i f0 = x)
    (hn : holdNext freq2 x (readState t v u i) (readState t v u (2 + i)) t.draws = n) :
    holdChannel freq2 i t = .ok () { holdStored v u i n t with
      stk := t.stk.set i n.2, draws := t.draws + 2 } := by
  obtain rfl := own.vi
  obtain rfl := own.ui
  have hstored : holdChannel freq2 i t = .ok () { holdStored t.vi t.ui i n t with
      stk := t.stk.set i (readState (holdStored t.vi t.ui i n t) t.vi t.ui (2 + i))
      draws := t.draws + 2 } := by
    subst hn hx
    rfl
  rw [hstored, own.readState_holdStored_held n hi]

theorem holdChannels_mono (h : t.stk = x :: rest)
    (hn : holdNext freq2 x (readState t v u 0) (readState t v u 2) t.draws = n) :
    forChannels false (fun i => holdChannel freq2 i) t = .ok ()
      { holdStored v u 0 n t with stk := n.2 :: rest, draws := t.draws + 2 } := by
  rw [forChannels_false, holdChannel_run own freq2 (by decide) (by rw [h]; rfl) hn, h]
  rfl

/-- The second channel finds its own slots as the command found them. -/
theorem holdChannels_stereo (h : t.stk = x :: y :: rest)
    (hn : holdNext freq2 x (readState t v u 0) (readState t v u 2) t.draws = n)
    (hn' : holdNext freq2 y (readState t v u 1) (readState t v u 3) (t.draws + 2) = n') :
    forChannels true (fun i => holdChannel freq2 i) t = .ok ()
      { holdStored v u 1 n' (holdStored v u 0 n t) with
        stk := n.2 :: n'.2 :: rest, draws := t.draws + 4 } := by
  have hfirst : holdChannel freq2 0 t = .ok () { holdStored v u 0 n t with
      stk := n.2 :: y :: rest, draws := t.draws + 2 } := by
    rw [holdChannel_run own freq2 (by decide) (by rw [h]; rfl) hn, h]
    rfl
  have own' := (own.holdStored n (i := 0) (by decide)).signal (n.2 :: y :: rest) (t.draws + 2)
  rw [← own.readState_holdStored_other n (i := 0) (by decide) (by decide) (by decide),
    ← own.readState_holdStored_other (j := 3) n (i := 0) (by decide) (by decide) (by decide)]
    at hn'
  rw [forChannels_true, bind_ok hfirst, holdChannel_run own' freq2 (by decide) rfl hn']
  rfl

end

section
variable {b : Bool} {f : Byte} (hu : s.ui < 63) (ht : operandsRead [f] 0 s = t)
include hu ht

theorem execHold_eq (hdepth : ch b ≤ s.stk.length) :
    exec (.hold b f) s = .next (finishUnit (commandSite s)
      (forChannels b (fun i => holdChannel (mulAt t.draws (readParam t 0) (readParam t 0)) i)
        { t with draws := t.draws + 1 })) := by
  have hneed : ch b ≤ t.stk.length := by rwa [← ht, operandsRead_stk]
  refine (runUnit_below hu [f] 0 _).trans ?_
  rw [ht, need_bind, if_pos hneed, param_bind, num_then, fmul_run]

variable (hwf : Memory.wf unitWords (s.voices.get s.vi).units = true) {n n' : F32 × F32}
include hwf

theorem execHold_mono (h : s.stk = x :: rest)
    (hn : holdNext (mulAt t.draws (readParam t 0) (readParam t 0)) x
      (readState t s.vi s.ui 0) (readState t s.vi s.ui 2) (t.draws + 1) = n) :
    exec (.hold false f) s = .next { holdStored s.vi s.ui 0 n t with
      stk := n.2 :: rest, draws := t.draws + 3, ui := s.ui + 1 } := by
  have own : OwnUnit s.vi s.ui t := ht ▸ .operandsRead hu hwf 0 (by simp)
  have hstk : t.stk = x :: rest := by rw [← ht, operandsRead_stk, h]
  rw [execHold_eq hu ht (by simp [h]), holdChannels_mono (own.drawn (t.draws + 1)) _ hstk hn,
    finishUnit_ok, ← own.ui]
  rfl

theorem execHold_stereo (h : s.stk = x :: y :: rest)
    (hn : holdNext (mulAt t.draws (readParam t 0) (readParam t 0)) x
      (readState t s.vi s.ui 0) (readState t s.vi s.ui 2) (t.draws + 1) = n)
    (hn' : holdNext (mulAt t.draws (readParam t 0) (readParam t 0)) y
      (readState t s.vi s.ui 1) (readState t s.vi s.ui 3) (t.draws + 3) = n') :
    exec (.hold true f) s = .next
      { holdStored s.vi s.ui 1 n' (holdStored s.vi s.ui 0 n t) with
        stk := n.2 :: n'.2 :: rest, draws := t.draws + 5, ui := s.ui + 1 } := by
  have own : OwnUnit s.vi s.ui t := ht ▸ .operandsRead hu hwf 0 (by simp)
  have hstk : t.stk = x :: y :: rest := by rw [← ht, operandsRead_stk, h]
  rw [execHold_eq hu ht (by simp [h]), holdChannels_stereo (own.drawn (t.draws + 1)) _ hstk hn hn',
    finishUnit_ok, ← own.ui]
  rfl

end

/-! ### `filter` -/

theorem filterNext_run (freq2 res x low0 band0 : F32) (k : Nat) :
    let low := addAt (k + 1) low0 (mulAt k freq2 band0)
    let high := subAt (k + 4) (subAt (k + 2) x low) (mulAt (k + 3) res band0)
    filterNext freq2 res x low0 band0 k =
      ((low, addAt (k + 6) band0 (mulAt (k + 5) freq2 high), high), k + 7) := (rfl)

/-- The sum with one more tap, where the flags byte selects it. -/
def addTap (selected : Bool) (tap : F32) (y : F32 × Nat) : F32 × Nat :=
  if selected then (addAt y.2 y.1 tap, y.2 + 1) else y

section
variable (selected : Bool) (tap y : F32) (k : F32 → Num F32) (d : Nat)

theorem addTap_then : (if selected then fadd y tap >>= k else pure y >>= k : Num F32) d =
    k (addTap selected tap (y, d)).1 (addTap selected tap (y, d)).2 := by
  cases selected <;> rfl

theorem subTap_then : (if selected then fsub y tap >>= k else pure y >>= k : Num F32) d =
    k (addTap selected (fneg tap) (y, d)).1 (addTap selected (fneg tap) (y, d)).2 := by
  cases selected <;> rfl

theorem subTap_run : (if selected then fsub y tap else pure y : Num F32) d =
    addTap selected (fneg tap) (y, d) := by
  cases selected <;> rfl

end

/-- R502: the taps are summed in the order low, band, high, -band, -high. -/
theorem filterTaps_run (flags : Byte) (low band high : F32) (d : Nat) :
    filterTaps flags low band high d =
      addTap (tapNegHigh flags) (fneg high) (addTap (tapNegBand flags) (fneg band)
        (addTap (tapHigh flags) high (addTap (tapBand flags) band
          (addTap (tapLow flags) low (f0, d))))) := by
  simp only [filterTaps, addTap_then, subTap_then, subTap_run]

/-- The state with the new low and band of `n` in the slots of channel `i`. -/
def filterStored (v : Fin 32) (u i : Nat) (n : F32 × F32 × F32) (t : State) : State :=
  writeState (writeState t v u (2 * i) n.1) v u (2 * i + 1) n.2.1

section
variable {v : Fin 32} {u i : Nat} (own : OwnUnit v u t) (n : F32 × F32 × F32)
include own

theorem OwnUnit.filterStored (hi : i < 2) : OwnUnit v u (filterStored v u i n t) :=
  (own.writeState n.1 (by omega)).writeState n.2.1 (by omega)

theorem OwnUnit.readState_filterStored_other {j : Nat} (hi : i < 2) (hj : j ≠ 2 * i)
    (hj' : j ≠ 2 * i + 1) :
    readState (Machine.filterStored v u i n t) v u j = readState t v u j :=
  own.readState_writeTwo n.1 n.2.1 (by omega) hj hj'

end

section
variable {v : Fin 32} {u : Nat} (own : OwnUnit v u t) (flags : Byte) (freq2 res : F32)
  {n n' : F32 × F32 × F32} {k k' : Nat} {z z' : F32 × Nat}
include own

theorem filterChannel_run {i : Nat} (hx : t.stk.getD i f0 = x)
    (hn : filterNext freq2 res x (readState t v u (2 * i)) (readState t v u (2 * i + 1)) t.draws =
      (n, k))
    (hz : filterTaps flags n.1 n.2.1 n.2.2 k = z) :
    filterChannel flags freq2 res i t = .ok () { filterStored v u i n t with
      stk := t.stk.set i z.1, draws := z.2 } := by
  obtain rfl := own.vi
  obtain rfl := own.ui
  subst hx hz
  rw [filterChannel, top_bind, ownState_bind, ownState_bind, num_then, hn]
  rfl

theorem filterChannels_mono (h : t.stk = x :: rest)
    (hn : filterNext freq2 res x (readState t v u 0) (readState t v u 1) t.draws = (n, k))
    (hz : filterTaps flags n.1 n.2.1 n.2.2 k = z) :
    forChannels false (fun i => filterChannel flags freq2 res i) t = .ok ()
      { filterStored v u 0 n t with stk := z.1 :: rest, draws := z.2 } := by
  rw [forChannels_false, filterChannel_run own flags freq2 res (i := 0) (by rw [h]; rfl) hn hz, h]
  rfl

/-- The second channel finds its own slots as the command found them. -/
theorem filterChannels_stereo (h : t.stk = x :: y :: rest)
    (hn : filterNext freq2 res x (readState t v u 0) (readState t v u 1) t.draws = (n, k))
    (hz : filterTaps flags n.1 n.2.1 n.2.2 k = z)
    (hn' : filterNext freq2 res y (readState t v u 2) (readState t v u 3) z.2 = (n', k'))
    (hz' : filterTaps flags n'.1 n'.2.1 n'.2.2 k' = z') :
    forChannels true (fun i => filterChannel flags freq2 res i) t = .ok ()
      { filterStored v u 1 n' (filterStored v u 0 n t) with
        stk := z.1 :: z'.1 :: rest, draws := z'.2 } := by
  have hfirst : filterChannel flags freq2 res 0 t = .ok () { filterStored v u 0 n t with
      stk := z.1 :: y :: rest, draws := z.2 } := by
    rw [filterChannel_run own flags freq2 res (i := 0) (by rw [h]; rfl) hn hz, h]
    rfl
  have own' := (own.filterStored n (i := 0) (by decide)).signal (z.1 :: y :: rest) z.2
  rw [← own.readState_filterStored_other n (i := 0) (by decide) (by decide) (by decide),
    ← own.readState_filterStored_other (j := 3) n (i := 0) (by decide) (by decide) (by decide)]
    at hn'
  rw [forChannels_true, bind_ok hfirst, filterChannel_run own' flags freq2 res (i := 1) rfl hn' hz']
  rfl

end

section
variable {b : Bool} {fr rs flags : Byte} (hu : s.ui < 63) (ht : operandsRead [fr, rs] 1 s = t)
include hu ht

theorem execFilter_eq (hdepth : ch b ≤ s.stk.length) :
    exec (.filter b fr rs flags) s = .next (finishUnit (commandSite s)
      (forChannels b (fun i => filterChannel flags (mulAt t.draws (readParam t 0) (readParam t 0))
        (readParam t 1) i) { t with draws := t.draws + 1 })) := by
  have hneed : ch b ≤ t.stk.length := by rwa [← ht, operandsRead_stk]
  refine (runUnit_below hu [fr, rs] 1 _).trans ?_
  rw [ht, need_bind, if_pos hneed, param_bind, num_then, fmul_run, param_bind]
  rfl

variable (hwf : Memory.wf unitWords (s.voices.get s.vi).units = true)
  {n n' : F32 × F32 × F32} {k k' : Nat} {z z' : F32 × Nat}
include hwf

theorem execFilter_mono (h : s.stk = x :: rest)
    (hn : filterNext (mulAt t.draws (readParam t 0) (readParam t 0)) (readParam t 1) x
      (readState t s.vi s.ui 0) (readState t s.vi s.ui 1) (t.draws + 1) = (n, k))
    (hz : filterTaps flags n.1 n.2.1 n.2.2 k = z) :
    exec (.filter false fr rs flags) s = .next { filterStored s.vi s.ui 0 n t with
      stk := z.1 :: rest, draws := z.2, ui := s.ui + 1 } := by
  have own : OwnUnit s.vi s.ui t := ht ▸ .operandsRead hu hwf 1 (by simp)
  have hstk : t.stk = x :: rest := by rw [← ht, operandsRead_stk, h]
  rw [execFilter_eq hu ht (by simp [h]),
    filterChannels_mono (own.drawn (t.draws + 1)) _ _ _ hstk hn hz, finishUnit_ok, ← own.ui]
  rfl

theorem execFilter_stereo (h : s.stk = x :: y :: rest)
    (hn : filterNext (mulAt t.draws (readParam t 0) (readParam t 0)) (readParam t 1) x
      (readState t s.vi s.ui 0) (readState t s.vi s.ui 1) (t.draws + 1) = (n, k))
    (hz : filterTaps flags n.1 n.2.1 n.2.2 k = z)
    (hn' : filterNext (mulAt t.draws (readParam t 0) (readParam t 0)) (readParam t 1) y
      (readState t s.vi s.ui 2) (readState t s.vi s.ui 3) z.2 = (n', k'))
    (hz' : filterTaps flags n'.1 n'.2.1 n'.2.2 k' = z') :
    exec (.filter true fr rs flags) s = .next
      { filterStored s.vi s.ui 1 n' (filterStored s.vi s.ui 0 n t) with
        stk := z.1 :: z'.1 :: rest, draws := z'.2, ui := s.ui + 1 } := by
  have own : OwnUnit s.vi s.ui t := ht ▸ .operandsRead hu hwf 1 (by simp)
  have hstk : t.stk = x :: y :: rest := by rw [← ht, operandsRead_stk, h]
  rw [execFilter_eq hu ht (by simp [h]),
    filterChannels_stereo (own.drawn (t.draws + 1)) _ _ _ hstk hn hz hn' hz', finishUnit_ok,
    ← own.ui]
  rfl

end

/-! ### `compressor` -/

theorem signalPower_mono (h : s.stk = x :: rest) (d : Nat) :
    signalPower false (s.stk.getD 0 f0) (s.stk.getD 1 f0) d = (mulAt d x x, d + 1) := by
  rw [h]
  rfl

theorem signalPower_stereo (h : s.stk = x :: y :: rest) (d : Nat) :
    signalPower true (s.stk.getD 0 f0) (s.stk.getD 1 f0) d =
      (addAt (d + 2) (mulAt d x x) (mulAt (d + 1) y y), d + 3) := by
  rw [h]
  rfl

theorem compressorLevel_run (attack release x2 level : F32) (k : Nat) :
    compressorLevel attack release x2 level k =
      (addAt (k + 3) level (mulAt (k + 2)
        (exp2F (mulAt k fNeg24 (if flt level x2 then attack else release)))
        (subAt (k + 1) x2 level)), k + 4) := (rfl)

/-- The gain is raised to its power above the threshold only (R503). -/
theorem compressorGain_run (invgain threshold ratio level : F32) (k : Nat) :
    compressorGain invgain threshold ratio level k =
      (if flt (mulAt k threshold threshold) level then
        divAt (k + 3) (powF (divAt (k + 1) (mulAt k threshold threshold) level)
          (divAt (k + 2) ratio f2)) invgain
      else divAt (k + 1) f1 invgain,
      if flt (mulAt k threshold threshold) level then k + 4 else k + 2) := by
  cases h : flt (mulAt k threshold threshold) level <;> simp [compressorGain, h]

/-- The state in which `compressor` pushes: `level` is in slot 0 of the executing unit of `s`. -/
def levelStored (s t : State) (level : F32) (d : Nat) : State :=
  { writeState t s.vi s.ui 0 level with draws := d }

theorem SameStack.levelStored (same : SameStack s t) (level : F32) (d : Nat) :
    SameStack s (levelStored s t level d) :=
  { cfg := same.cfg, stk := same.stk, ui := same.ui }

/-- Up to its pushes `compressor` leaves its input where it is. -/
theorem execCompressor_eq {b : Bool} {a re ig th ra : Byte} (hu : s.ui < 63)
    (hdepth : ch b ≤ s.stk.length) (ht : operandsRead [a, re, ig, th, ra] 0 s = t)
    {x2 level g : F32} {k k' d : Nat}
    (hx2 : signalPower b (s.stk.getD 0 f0) (s.stk.getD 1 f0) t.draws = (x2, k))
    (hlevel : compressorLevel (readParam t 0) (readParam t 1) x2 (readState t s.vi s.ui 0) k =
      (level, k'))
    (hg : compressorGain (readParam t 2) (readParam t 3) (readParam t 4) level k' = (g, d)) :
    exec (.compressor b a re ig th ra) s = .next (finishUnit (commandSite s)
      (pushTwice b g (levelStored s t level d))) := by
  have hstk : t.stk = s.stk := by rw [← ht, operandsRead_stk]
  have hvi : t.vi = s.vi := by rw [← ht, operandsRead_vi]
  have hui : t.ui = s.ui := by rw [← ht, operandsRead_ui]
  rw [← hstk] at hdepth hx2
  rw [← hvi, ← hui] at hlevel
  have hlevel' : compressorLevel (readParam t 0) (readParam t 1) x2
      (readState { t with draws := k } t.vi t.ui 0) k = (level, k') := hlevel
  refine (runUnit_below hu [a, re, ig, th, ra] 0 _).trans ?_
  rw [ht, need_bind, if_pos hdepth, readAll_bind, top_bind, top_bind, num_then, hx2, ownState_bind,
    num_then, hlevel', setOwnState_bind, num_then, writeState_draws, hg, levelStored, ← hvi,
    ← hui]
  rfl

end Sys2Proof.Machine

namespace Sys2Proof.Proofs
open Sys2Proof.Machine

/-- Settles O27: the pushes follow the two writes, and each forms its product anew. -/
theorem envelopeResult : Obligations.EnvelopeResult := by
  intro a dc su re g s hu m stage n e t y
  have hexec (b : Bool) := execEnvelope_eq b a dc su re g hu (t := m) rfl (n := n) rfl
  have same : SameStack s m := .operandsRead s _ _
  have hstored := same.envelopeStored n
  refine ⟨fun hroom => ?_, fun hroom => ?_, fun hone => ?_, fun b hfull => ?_⟩
  · rw [hexec, finishUnit_product_room hstored _ hroom]
    rfl
  · rw [hexec, finishUnit_products_room hstored _ hroom]
    rfl
  · rw [hexec, finishUnit_products_roomForOne hstored _ hone]
    rfl
  · rw [hexec, finishUnit_products_full hstored _ b hfull]
    rfl

/-- Settles O29: each channel runs on two slots of its own. -/
theorem holdResult : Obligations.HoldResult := by
  intro f s hu hwf
  generalize hm : operandsRead [f] 0 s = t
  intro m v u d f2 fallen held phase after
  have hnext (k i : Nat) (x : F32) : holdNext f2 x (readState m v u i) (readState m v u (2 + i)) k =
      (phase k i, held k i x) := rfl
  have hafter (t : State) (k i : Nat) (x : F32) : after t k i x =
      holdStored v u i (phase k i, held k i x) t := rfl
  refine ⟨fun x rest h => ?_, fun x y rest h => ?_,
    fun b => exec_stackUnderflow_of_start ((afterOperands_hold s b f).trans hm) hu⟩
  · rw [hafter]
    exact execHold_mono hu hm hwf h (hnext (d + 1) 0 x)
  · rw [hafter, hafter]
    exact execHold_stereo hu hm hwf h (hnext (d + 1) 0 x) (hnext (d + 3) 1 y)

/-- Settles O30: each channel runs on two slots of its own, and its taps take the draws behind. -/
theorem filterResult : Obligations.FilterResult := by
  refine ⟨fun flags low band high d => filterTaps_run flags low band high d, ?_⟩
  intro fr rs flags s hu hwf
  generalize hm : operandsRead [fr, rs] 1 s = t
  intro m v u d f2 low high band after y
  have hnext (k i : Nat) (x : F32) :
      filterNext f2 (readParam m 1) x (readState m v u (2 * i)) (readState m v u (2 * i + 1)) k =
        ((low k i, band k i x, high k i x), k + 7) := filterNext_run ..
  have hafter (t : State) (k i : Nat) (x : F32) : after t k i x =
      filterStored v u i (low k i, band k i x, high k i x) t := rfl
  refine ⟨fun x rest h => ?_, fun x z rest h => ?_,
    fun b => exec_stackUnderflow_of_start ((afterOperands_filter s b fr rs flags).trans hm) hu⟩
  · rw [hafter]
    exact execFilter_mono hu hm hwf h (hnext (d + 1) 0 x) rfl
  · intro k
    rw [hafter, hafter]
    exact execFilter_stereo hu hm hwf h (hnext (d + 1) 0 x) rfl (hnext k 1 z) rfl

/-- Settles O31: the pushes follow the one write, and both push one gain. -/
theorem compressorResult : Obligations.CompressorResult := by
  intro a re ig th ra s hu
  have same := SameStack.operandsRead s [a, re, ig, th, ra] 0
  generalize hm : operandsRead [a, re, ig, th, ra] 0 s = t at same ⊢
  intro m level0 d level t2 loud gain last
  have hlevel (k : Nat) (x2 : F32) :
      compressorLevel (readParam m 0) (readParam m 1) x2 (readState m s.vi s.ui 0) k =
        (level k x2, k + 4) := compressorLevel_run ..
  have hgain (k : Nat) (l : F32) :
      compressorGain (readParam m 2) (readParam m 3) (readParam m 4) l k =
        (gain k l, last k l) := compressorGain_run ..
  refine ⟨fun x rest h => ?_, fun x y rest h => ?_, fun b =>
    exec_stackUnderflow_of_start ((afterOperands_compressor s b a re ig th ra).trans hm) hu⟩
  · intro l k
    have hexec := execCompressor_eq hu (by simp [h]) hm (signalPower_mono h d) (hlevel _ _)
      (hgain k l)
    have hstored := same.levelStored l (last k l)
    refine ⟨fun hroom => ?_, fun hfull => ?_⟩
    · rw [hexec, pushTwice_false, finishUnit_push_room hstored _ hroom]
      rfl
    · rw [hexec, finishUnit_pushTwice_full hstored _ false hfull]
      rfl
  · intro l k
    have hexec := execCompressor_eq hu (by simp [h]) hm (signalPower_stereo h d) (hlevel _ _)
      (hgain k l)
    have hstored := same.levelStored l (last k l)
    refine ⟨fun hroom => ?_, fun hone => ?_, fun hfull => ?_⟩
    · rw [hexec, pushTwice_true, finishUnit_pushes_room hstored _ _ hroom]
      rfl
    · rw [hexec, pushTwice_true, finishUnit_pushes_roomForOne hstored _ _ hone]
      rfl
    · rw [hexec, finishUnit_pushTwice_full hstored _ true hfull]
      rfl

end Sys2Proof.Proofs
end

section
/-! Routing: what a send address resolves to, the port adds of `send`, the time step of `speed`, and the
sync record of `sync` (R520 to R526). -/
namespace Sys2Proof.Machine

variable {s t m : State} {x y : F32} {rest : List F32}

/-! ### Send addresses -/

/-- The voice an address names: its voice field in a global address, else the executing voice. -/
def sendVoice (a : Half) (vi : Fin 32) : Fin 32 :=
  if a.getLsbD 15 then (a.extractLsb' 10 5).toFin else vi

theorem val_sendVoice (a : Half) (vi : Fin 32) :
    (sendVoice a vi).val = if a.getLsbD 15 then (a.extractLsb' 10 5).toNat else vi.val := by
  rw [sendVoice]
  split <;> rfl

theorem toNat_field (a : Half) (i n : Nat) :
    (a.extractLsb' i n).toNat = a.toNat / 2 ^ i % 2 ^ n := by
  rw [BitVec.extractLsb'_toNat, Nat.shiftRight_eq_div_pow]

/-- Bit 15, the global bit, as the bound the resolution tests. -/
theorem globalBit_iff (a : Half) : a.getLsbD 15 = true ↔ 0x8000 ≤ a.toNat := by
  rw [← BitVec.msb_eq_getLsbD_last a, BitVec.msb_eq_decide, decide_eq_true_iff]

/-- The subtraction of 0x8010 borrows from the unit field alone, unless that field is 0 (R520). -/
theorem voiceField_of_global {a : Half} (hglobal : 0x8000 ≤ a.toNat)
    (hfield : a.toNat / 16 % 32 ≠ 0) :
    Fin.ofNat 32 ((a.toNat - 0x8010) / 1024) = (a.extractLsb' 10 5).toFin := by
  have hlt := a.isLt
  apply Fin.ext
  rw [Fin.val_ofNat, BitVec.val_toFin, toNat_field]
  omega

/-- R520 on the fields of the address. -/
theorem resolveSend_eq (a : Half) (b : Bool) (vi : Fin 32) :
    resolveSend a b vi =
      if (a.extractLsb' 4 5).toNat = 0 then .error (.renderFault .sendTarget)
      else if 8 ≤ (a.extractLsb' 0 3).toNat + b.toNat then .error (.renderFault .portRange)
      else .ok (sendVoice a vi, (a.extractLsb' 4 5).toNat - 1, (a.extractLsb' 0 3).toNat) := by
  have hunit : (a.extractLsb' 4 5).toNat = a.toNat / 16 % 32 := toNat_field a 4 5
  have hport : (a.extractLsb' 0 3).toNat = a.toNat % 8 :=
    (toNat_field a 0 3).trans (congrArg (· % 8) (Nat.div_one _))
  simp only [resolveSend, hunit, hport]
  by_cases hfield : a.toNat / 16 % 32 = 0
  · simp only [hfield, if_true, ite_self]
  · have hnonneg : ¬ (0x8000 ≤ a.toNat ∧ a.toNat < 0x8010) := by omega
    have hvoice : (if 0x8000 ≤ a.toNat then Fin.ofNat 32 ((a.toNat - 0x8010) / 1024) else vi) =
        sendVoice a vi := by
      simp only [sendVoice, globalBit_iff]
      split
      · exact voiceField_of_global ‹_› hfield
      · rfl
    simp only [hnonneg, hfield, if_false, hvoice]

/-- A field reads the same in an address in which the bits outside it are masked. -/
theorem field_and {a c : Half} {i n : Nat} (h : c.extractLsb' i n = BitVec.allOnes n) :
    (a &&& c).extractLsb' i n = a.extractLsb' i n := by
  rw [BitVec.extractLsb'_and, h, BitVec.and_allOnes]

/-- No field holds bit 9. -/
theorem resolveSend_ignores_bit9 (a : Half) (b : Bool) (vi : Fin 32) :
    resolveSend (a &&& 0xFDFF#16) b vi = resolveSend a b vi := by
  have hglobal : (a &&& 0xFDFF#16).getLsbD 15 = a.getLsbD 15 := by
    rw [BitVec.getLsbD_and, show (0xFDFF#16).getLsbD 15 = true by decide, Bool.and_true]
  rw [resolveSend_eq, resolveSend_eq, sendVoice, sendVoice, hglobal, field_and (by decide),
    field_and (by decide), field_and (by decide)]

/-! ### `send` -/

/-- The adds of `send`: channel `i` of the signal to port `p + i`. -/
def portAdds (stereo : Bool) (v : Fin 32) (u p : Nat) (amt : F32) : M Unit :=
  forChannels stereo fun i => do
    let x ← top i
    portAdd v u (p + i) x amt

/-- What an add of `x * amt` leaves in port `k` of unit `u` of voice `v`, from draw `d` on. -/
def portSum (t : State) (d : Nat) (v : Fin 32) (u k : Nat) (x amt : F32) : F32 :=
  addAt (d + 1) (readPort t v u k) (mulAt d x amt)

/-- The state after a port add that left `z` in port `k` of unit `u` of voice `v`. -/
def portAdded (v : Fin 32) (u k : Nat) (z : F32) (t : State) : State :=
  writePort { t with draws := t.draws + 2 } v u k z

theorem SameStack.portAdded (same : SameStack s t) (v : Fin 32) (u k : Nat) (z : F32) :
    SameStack s (portAdded v u k z t) :=
  { cfg := same.cfg, stk := same.stk, ui := same.ui }

section
variable (v : Fin 32) (u p : Nat) (amt : F32)

theorem portAdds_mono (h : t.stk = x :: rest) :
    portAdds false v u p amt t =
      .ok () (portAdded v u p (portSum t t.draws v u p x amt) t) := by
  rw [portAdds, forChannels_false, top_bind, h]
  exact portAdd_run v u p x amt t

/-- The second add finds its port as the first has left it. -/
theorem portAdds_stereo (h : t.stk = x :: y :: rest) {t' : State}
    (ht' : portAdded v u p (portSum t t.draws v u p x amt) t = t') :
    portAdds true v u p amt t =
      .ok () (portAdded v u (p + 1) (portSum t' t'.draws v u (p + 1) y amt) t') := by
  have hfirst : (top 0 >>= fun x => portAdd v u (p + 0) x amt) t = .ok () t' := by
    rw [top_bind, h, ← ht']
    exact portAdd_run v u p x amt t
  have hstk : t'.stk = x :: y :: rest := ht' ▸ h
  rw [portAdds, forChannels_true, bind_ok hfirst, top_bind, hstk]
  exact portAdd_run v u (p + 1) y amt t'

end

/-- The end of `send`: it pops the signal when its address asks for it. -/
theorem finishUnit_sendPops (site : Option Nat) (same : SameStack s t) (adr : Half)
    {front : List F32} (h : s.stk = front ++ rest) :
    finishUnit site ((if sendPops adr then drop front.length else pure ()) t) = { t with
      stk := if adr.getLsbD 3 then rest else s.stk, ui := s.ui + 1 } := by
  rw [sendPops]
  split
  · exact finishUnit_drop site same h
  · rw [pure_run, finishUnit_ok, same.ui, ← same.stk]

section
variable {b : Bool} {am : Byte} {adr : Half} {v : Fin 32} {u p : Nat}
variable (hu : s.ui < 63) (hm : operandsRead [am] 2 s = m)
include hu hm

/-- With the depth in order, an address without a target faults before the amount is formed. -/
theorem execSend_error {e : RenderError} (hr : resolveSend adr b s.vi = .error e)
    (hdepth : ch b ≤ s.stk.length) :
    exec (.send b am adr) s = .next (faultEntry e (commandSite s) m) := by
  subst hm
  refine (runUnit_below hu [am] 2 _).trans ?_
  have htarget : sendTarget adr b (operandsRead [am] 2 s) = .error e (operandsRead [am] 2 s) := by
    rw [sendTarget, operandsRead_vi, hr]
  rw [need_bind, operandsRead_stk, if_pos hdepth, bind_error htarget, finishUnit_error]

theorem execSend_ok (hr : resolveSend adr b s.vi = .ok (v, u, p)) (hdepth : ch b ≤ s.stk.length) :
    exec (.send b am adr) s = .next (finishUnit (commandSite s)
      ((portAdds b v u p (subAt (m.draws + 1) (mulAt m.draws (readParam m 0) f2) f1) >>= fun _ =>
        if sendPops adr then drop (ch b) else pure ()) { m with draws := m.draws + 2 })) := by
  subst hm
  refine (runUnit_below hu [am] 2 _).trans ?_
  have htarget :
      sendTarget adr b (operandsRead [am] 2 s) = .ok (v, u, p) (operandsRead [am] 2 s) := by
    rw [sendTarget, operandsRead_vi, hr]
  rw [need_bind, operandsRead_stk, if_pos hdepth, bind_ok htarget, param_bind, num_then,
    signedParam_run]
  rfl

variable {amt : F32} (hamt : subAt (m.draws + 1) (mulAt m.draws (readParam m 0) f2) f1 = amt)
include hamt

theorem execSend_mono (hr : resolveSend adr false s.vi = .ok (v, u, p)) (h : s.stk = x :: rest) :
    exec (.send false am adr) s = .next
      { writePort m v u p (portSum m (m.draws + 2) v u p x amt) with
        stk := if adr.getLsbD 3 then rest else s.stk
        draws := m.draws + 4, ui := s.ui + 1 } := by
  have same : SameStack s m := hm ▸ .operandsRead s [am] 2
  rw [execSend_ok hu hm hr (by simp [h]), hamt,
    bind_ok (portAdds_mono v u p amt (t := { m with draws := m.draws + 2 }) (same.stk.trans h))]
  exact congrArg _ (finishUnit_sendPops _ ((same.drawn _).portAdded v u p _) adr (front := [x]) h)

theorem execSend_stereo (hr : resolveSend adr true s.vi = .ok (v, u, p))
    (h : s.stk = x :: y :: rest)
    (ht : writePort m v u p (portSum m (m.draws + 2) v u p x amt) = t) :
    exec (.send true am adr) s = .next
      { writePort t v u (p + 1) (portSum t (m.draws + 4) v u (p + 1) y amt) with
        stk := if adr.getLsbD 3 then rest else s.stk
        draws := m.draws + 6, ui := s.ui + 1 } := by
  subst ht
  have same : SameStack s m := hm ▸ .operandsRead s [am] 2
  rw [execSend_ok hu hm hr (by simp [h]), hamt,
    bind_ok (portAdds_stereo v u p amt (t := { m with draws := m.draws + 2 })
      (same.stk.trans h) rfl)]
  exact congrArg _ (finishUnit_sendPops _
    (((same.drawn _).portAdded v u p _).portAdded v u (p + 1) _) adr (front := [x, y]) h)

end

/-- A `send` that completes writes the one port of its target, or the two, and no other word. -/
theorem readUnit_send_other {b : Bool} {am : Byte} {adr : Half} {v : Fin 32} {u p : Nat}
    (hu : s.ui < 63) (hm : operandsRead [am] 2 s = m) (hwf : VoicesWf s.voices)
    (hr : resolveSend adr b s.vi = .ok (v, u, p)) (hdepth : ch b ≤ s.stk.length)
    (ht : exec (.send b am adr) s = .next t) {w : Fin 32} {key : Nat}
    (hkey : w = v → key ≠ portKey u p ∧ (b = true → key ≠ portKey u (p + 1))) :
    readUnit t w key = readUnit m w key := by
  obtain ⟨hunit, hport⟩ := resolveSend_ok hr
  have hwfm : VoicesWf m.voices := hm ▸ hwf.operandsRead 2 hu (by simp)
  have hfirst (z : F32) :
      readWord (writeWord m.voices v (portKey u p) z) w key = readWord m.voices w key :=
    readWord_writeWord_other hwfm z (Decidable.not_or_of_imp fun h => (hkey h).1)
  cases b with
  | false =>
    obtain ⟨x, rest, h⟩ := List.exists_cons_of_length_pos hdepth
    rw [execSend_mono hu hm rfl hr h] at ht
    cases ht
    exact hfirst _
  | true =>
    obtain ⟨x, y, rest, h⟩ : ∃ x y rest, s.stk = x :: y :: rest := by
      rw [ch_true] at hdepth
      match s.stk, hdepth with
      | x :: y :: rest, _ => exact ⟨x, y, rest, rfl⟩
    rw [execSend_stereo hu hm rfl hr h rfl] at ht
    cases ht
    have hwf' := hwfm.write v (portSum m (m.draws + 2) v u p x
      (subAt (m.draws + 1) (mulAt m.draws (readParam m 0) f2) f1))
      (portKey_lt hunit (hport 0 (by decide)))
    exact (readWord_writeWord_other hwf' _
      (Decidable.not_or_of_imp fun h => (hkey h).2 rfl)).trans (hfirst _)

/-! ### `speed` -/

theorem speedAcc_run (carried x : F32) (d : Nat) : speedAcc carried x d =
    (addAt (d + 2) carried (subAt (d + 1)
      (if isNaN x then mulAt d kSpeed x else exp2F (mulAt d kSpeed x)) f1), d + 3) := (rfl)

/-- A NaN control signal makes the accumulator NaN (R524). -/
theorem isNaN_speedAcc (carried : F32) (d : Nat) (h : isNaN x = true) :
    isNaN (speedAcc carried x d).1 = true := by
  rw [speedAcc_run, if_pos h]
  exact isNaN_addAt (.inr (isNaN_subAt (isNaN_mulAt (.inr h))))

section
variable (b : Bool) (hu : s.ui < 63) (h : s.stk = x :: rest) {acc shifted : F32}
variable (hacc : speedAcc (readState s s.vi s.ui 0) x s.draws = (acc, s.draws + 3))
variable (hshifted : addAt (s.draws + 3) acc f1_5 = shifted)
include hu h hacc hshifted

/-- The handler of `speed` up to its conversion to an integer. -/
theorem execSpeed_eq : exec (.speed b) s = .next (finishUnit (commandSite s)
    ((truncI shifted >>= fun k => do
      change fun t => { t with time := t.time + (k - 1) }
      let rest ← num (fsub acc (ofInt (k - 1)))
      setOwnState 0 rest) { s with stk := rest, draws := s.draws + 4 })) := by
  refine exec_of_handler rfl hu ((need_of_stk (front := [x]) h _).trans ?_)
  have hown : readState { s with stk := rest } s.vi s.ui 0 = readState s s.vi s.ui 0 := rfl
  rw [top_bind, h, drop_bind, ownState_bind, num_then]
  simp only [h, List.getD_cons_zero, List.drop_succ_cons, List.drop_zero, hown, hacc]
  rw [num_then, fadd_run, hshifted]

theorem execSpeed_finite (hfin : isFinite shifted = true) : exec (.speed b) s = .next
    { writeState s s.vi s.ui 0 (subAt (s.draws + 4) acc (ofInt (truncInt shifted - 1))) with
      stk := rest, time := s.time + (truncInt shifted - 1)
      draws := s.draws + 5, ui := s.ui + 1 } := by
  rw [execSpeed_eq b hu h hacc hshifted, truncI_bind, if_pos hfin, change_bind, num_then, fsub_run,
    setOwnState_run, finishUnit_ok]
  rfl

theorem execSpeed_notFinite (hfin : isFinite shifted = false) : exec (.speed b) s =
    .next (faultEntry (.renderFault .nonFiniteIndex) (commandSite s)
      { s with stk := rest, draws := s.draws + 4 }) := by
  rw [execSpeed_eq b hu h hacc hshifted, truncI_bind, if_neg (by simp [hfin]), finishUnit_error]

end

/-! ### `sync` -/

section
variable (b : Bool) (hu : s.ui < 63) (h : s.stk = x :: rest)
include hu h

theorem execSync_eq : exec (.sync b) s = .next (finishUnit (commandSite s)
    ((if syncDue s then syncWrite x else pure ()) s)) := by
  refine exec_of_handler rfl hu ((need_of_stk (front := [x]) h _).trans ?_)
  rw [readAll_bind, top_bind, h, List.getD_cons_zero]

theorem execSync_room (hdue : syncDue s = true) (hroom : s.syncPos < syncCap s) :
    exec (.sync b) s = .next { s with
      syncBuffer := s.syncBuffer.set s.syncPos x, syncPos := s.syncPos + 1, ui := s.ui + 1 } := by
  rw [execSync_eq b hu h, if_pos hdue, syncWrite_run, if_pos hroom, finishUnit_ok]

theorem execSync_full (hdue : syncDue s = true) (hfull : syncCap s ≤ s.syncPos) :
    exec (.sync b) s =
      .next (faultEntry (.renderFault .syncBufferFull) (commandSite s) s) := by
  rw [execSync_eq b hu h, if_pos hdue, syncWrite_run, if_neg (Nat.not_lt.2 hfull),
    finishUnit_error]

theorem execSync_notDue (hdue : ¬ syncDue s = true) :
    exec (.sync b) s = .next { s with ui := s.ui + 1 } := by
  rw [execSync_eq b hu h, if_neg hdue, pure_run, finishUnit_ok]

end

end Sys2Proof.Machine

namespace Sys2Proof.Proofs
open Sys2Proof.Machine

/-- Settles O32: the resolution in terms of the address's fields, none of which holds bit 9. -/
theorem sendAddress : Obligations.SendAddress := by
  intro a b vi field port
  refine ⟨fun hfield => ?_, fun hfield hport => ?_, fun hfield hport => ?_,
    (resolveSend_ignores_bit9 a b vi).symm⟩
  · rw [resolveSend_eq, if_pos hfield]
  · rw [resolveSend_eq, if_neg hfield, if_pos hport]
  · rw [resolveSend_eq, if_neg hfield, if_neg (Nat.not_le.2 hport)]
    exact ⟨sendVoice a vi, rfl, val_sendVoice a vi⟩

/-- Settles O33: the adds run one after the other, each on the port as it finds it. -/
theorem sendResult : Obligations.SendResult := by
  intro am adr s hu m d amt
  exact ⟨fun _ _ _ _ _ => execSend_mono hu rfl rfl,
    fun _ _ _ _ _ _ hr h => execSend_stereo hu rfl rfl hr h rfl,
    fun _ _ => execSend_error hu rfl,
    fun b => exec_stackUnderflow_of_start (afterOperands_send s b am adr) hu,
    fun hwf _ _ _ _ _ hr hdepth ht _ _ => readUnit_send_other hu rfl hwf hr hdepth ht⟩

/-- Settles O34, by the one test of `speed`, which no accumulator of a NaN control signal passes. -/
theorem speedResult : Obligations.SpeedResult := by
  intro b s x rest hu h d exponent acc shifted n
  have hacc : speedAcc (readState s s.vi s.ui 0) x d = (acc, d + 3) := speedAcc_run _ x d
  refine ⟨execSpeed_finite b hu h hacc rfl, fun hbad => execSpeed_notFinite b hu h hacc rfl ?_⟩
  rcases hbad with hfin | hnan
  · exact hfin
  · have haccNaN := isNaN_speedAcc (readState s s.vi s.ui 0) d hnan
    rw [hacc] at haccNaN
    exact isFinite_of_isNaN (isNaN_addAt (.inl haccNaN))

/-- Settles O35, by whether the record is due and then by the room for it. -/
theorem syncResult : Obligations.SyncResult := by
  intro b s x rest hu h
  exact ⟨fun hdue => execSync_room b hu h (syncDue_iff.2 hdue),
    fun hdue => execSync_full b hu h (syncDue_iff.2 hdue),
    fun hdue => execSync_notDue b hu h (mt syncDue_iff.1 hdue)⟩

end Sys2Proof.Proofs
end

section
/-! One line of `delay` (R542): its delay, which is finite whatever the mode, and what it writes. -/
namespace Sys2Proof.Machine

variable {s : State} {β : Type}

/-! ### The delay in samples -/

/-- Materialisation has cleared port 4, so its term of the delay is +0.0. -/
theorem portTerm_zero (d : Nat) : mulAt d f0 f32767 = f0 :=
  mulAt_eq (by decide) (by decide) (by decide) (by decide) (by decide) d

theorem toNat_lt_two_pow_24 {n : Nat} (w : BitVec n) (hn : n ≤ 24 := by decide) :
    w.toNat < 2 ^ 24 :=
  w.isLt.trans_le (Nat.pow_le_pow_right (by decide) hn)

/-- A finite value over a value of at least 1 is finite; the divisor may be an infinity. -/
theorem isFinite_divAt_of_one_le {a b : F32} (ha : isFinite a = true) (hb : fle f1 b = true)
    (d : Nat) : isFinite (divAt d a b) = true := by
  simp only [fle, Bool.and_eq_true, Bool.not_eq_true', decide_eq_true_eq] at hb
  obtain ⟨⟨-, hnan⟩, hle⟩ := hb
  have hmag : 2 ^ 149 ≤ magnitude b := by
    rw [← natAbs_scaled]
    have hone : scaled f1 = 2 ^ 149 := by decide
    omega
  cases hinf : isInf b with
  | true =>
    simp [divAt, isNaN_of_isFinite ha, isInf_of_isFinite ha, hnan, hinf]
  | false =>
    have hbound : magnitude a * 1 < overflowBound * 1 := by
      rw [← isFinite_roundRat (isNeg a) Nat.one_pos, roundRat_magnitude ha Nat.one_pos]
      exact ha
    have hpos : 0 < magnitude b := Nat.lt_of_lt_of_le (by positivity) hmag
    rw [divAt_finite ha (isFinite_of_not hnan hinf) hpos.ne', isFinite_roundRat _ hpos]
    rw [Nat.mul_one, Nat.mul_one] at hbound
    exact Nat.mul_lt_mul_of_lt_of_le hbound hmag hpos

/-- The scale of a pitched line is at least 1, because `Exp2F` is 1 at zero and monotone (R16). -/
theorem one_le_exp2F_note (d : Nat) (note : Byte) :
    fle f1 (exp2F (divAt d (ofInt note.toNat) f12)) = true := by
  obtain ⟨hfin, hneg, -⟩ := magnitude_ofInt_nat (toNat_lt_two_pow_24 note)
  have hnonneg : fle f0 (divAt d (ofInt note.toNat) f12) = true := by
    have hsign : isNeg f12 = false := by decide
    rw [divAt_finite hfin (by decide) (by decide), hneg, hsign, fle, isNaN_roundRat,
      scaled_eq_signed (roundRat _ _ _), isNeg_roundRat, bne_self_eq_false, signed_false]
    have hzero : isNaN f0 = false ∧ scaled f0 = 0 := by decide
    simp [hzero]
  have hone : exp2F f0 = f1 := by decide
  rw [← hone]
  exact exp2F_monotone hnonneg

theorem isFinite_pitchedDelay (entry : Half) (note : Byte) (d d' : Nat) :
    isFinite (divAt d (ofInt entry.toNat) (exp2F (divAt d' (ofInt note.toNat) f12))) = true :=
  isFinite_divAt_of_one_le (magnitude_ofInt_nat (toNat_lt_two_pow_24 entry)).1
    (one_le_exp2F_note d' note) d

theorem delayLength_run (entry : Half) (port : F32) (pitched : Bool) (note : Byte) (d : Nat) :
    delayLength entry port pitched note d =
      (let plain := addAt (d + 1) (ofInt entry.toNat) (mulAt d port f32767)
      if pitched then divAt (d + 3) plain (exp2F (divAt (d + 2) (ofInt note.toNat) f12)) else plain,
      d + if pitched then 4 else 2) := by
  cases pitched <;> simp [delayLength]

/-- With port 4 cleared the delay is the table entry, in pitched mode over its scale. -/
theorem delayLength_cleared (entry : Half) (pitched : Bool) (note : Byte) (d : Nat) :
    delayLength entry f0 pitched note d =
      (if pitched then
        divAt (d + 3) (ofInt entry.toNat) (exp2F (divAt (d + 2) (ofInt note.toNat) f12))
      else ofInt entry.toNat, d + if pitched then 4 else 2) := by
  obtain ⟨hfin, hneg, -⟩ := magnitude_ofInt_nat (toNat_lt_two_pow_24 entry)
  rw [delayLength_run, portTerm_zero, addAt_zero hfin hneg]

/-- `RoundI` of an integer is the integer. -/
theorem roundInt_ofInt (tie : RoundTie) {n : Nat} (h : n < 2 ^ 24) :
    roundInt tie (ofInt n) = n := by
  obtain ⟨-, hneg, hmag⟩ := magnitude_ofInt_nat h
  have hround : roundMagnitude tie (n * 2 ^ 149) = n := by
    unfold roundMagnitude
    rw [Nat.mul_mod_left, if_pos (by decide), Nat.mul_div_cancel _ (by positivity)]
  rw [roundInt_eq_signed, hneg, hmag, hround, signed_false]

/-! ### The parts of a line -/

theorem takeLine_bind (k : Nat → M β) (s : State) : (takeLine >>= k) s =
    if s.dl < s.lines.length then k s.dl { s with dl := s.dl + 1 }
    else .error (.renderFault .delayLinesExhausted) s := by
  by_cases h : s.dl < s.lines.length <;> simp [bind, EStateM.bind, takeLine, h]

theorem delayTime_some {index : Nat} {entry : Half} (h : s.patch.delayTimes[index]? = some entry)
    (k : Half → M β) : (delayTime index >>= k) s = k entry s :=
  bind_ok (by rw [delayTime, h])

theorem delayTime_none {index : Nat} (h : s.patch.delayTimes.length ≤ index) (k : Half → M β) :
    (delayTime index >>= k) s = .error (.renderFault .delayTimeIndex) s :=
  bind_error (by rw [delayTime, List.getElem?_eq_none h])

theorem lineNext_run (pg2 fb damp x old del : F32) (d : Nat) :
    lineNext pg2 fb damp x old del d =
      (let damped := addAt (d + 3) (mulAt d damp old) (mulAt (d + 2) (subAt (d + 1) f1 damp) del)
      (damped, addAt (d + 6) (mulAt (d + 4) fb damped) (mulAt (d + 5) pg2 x)), d + 7) := (rfl)

section
variable (pitched : Bool) (pg2 fb damp x out : F32) {index : Nat}

theorem delayLine_exhausted (h : s.lines.length ≤ s.dl) :
    delayLine pitched pg2 fb damp x out index s =
      .error (.renderFault .delayLinesExhausted) s := by
  rw [delayLine, takeLine_bind, if_neg (Nat.not_lt.2 h)]

theorem delayLine_noEntry (h : s.dl < s.lines.length)
    (hentry : s.patch.delayTimes.length ≤ index) :
    delayLine pitched pg2 fb damp x out index s =
      .error (.renderFault .delayTimeIndex) { s with dl := s.dl + 1 } := by
  rw [delayLine, takeLine_bind, if_pos h]
  exact delayTime_none (s := { s with dl := s.dl + 1 }) hentry _

variable {entry : Half} {length : F32} {d : Nat}
variable (h : s.dl < s.lines.length) (hentry : s.patch.delayTimes[index]? = some entry)
variable (hlength : delayLength entry (readPort s s.vi s.ui 4) pitched
  (s.voices.get s.vi).note s.draws = (length, d))
include h hentry hlength

/-- With its line and its entry there a line depends on its delay being finite. -/
theorem delayLine_eq : delayLine pitched pg2 fb damp x out index s =
    (roundI length >>= fun r => do
      let del := Memory.read (readLine s s.dl).buffer (tapIndex (ringTime s) r)
      let out' ← num (fadd out del)
      let next ← num (lineNext pg2 fb damp x (readLine s s.dl).dampState del)
      change fun t => writeLine t s.dl
        { readLine t s.dl with
          dampState := next.1
          buffer := Memory.write (readLine t s.dl).buffer (ringTime t) next.2 }
      return out') { s with dl := s.dl + 1, draws := d } := by
  rw [delayLine, takeLine_bind, if_pos h, delayTime_some (s := { s with dl := s.dl + 1 }) hentry,
    ownPort_bind, readAll_bind, num_then]
  have hlength' : delayLength entry (readPort { s with dl := s.dl + 1 } s.vi s.ui 4) pitched
      (currentVoice { s with dl := s.dl + 1 }).note s.draws = (length, d) := hlength
  rw [hlength']
  rfl

theorem delayLine_notFinite (hfin : isFinite length = false) :
    delayLine pitched pg2 fb damp x out index s = .error (.renderFault .nonFiniteIndex)
      { s with dl := s.dl + 1, draws := d } := by
  rw [delayLine_eq pitched pg2 fb damp x out h hentry hlength, roundI_bind, if_neg (by simp [hfin])]

/-- A line whose delay is finite reads its tap before it writes its ring. -/
theorem delayLine_finite (hfin : isFinite length = true) {L : DelayLine}
    (hL : readLine s s.dl = L) {tap : F32}
    (htap : Memory.read L.buffer
      (tapIndex (ringTime s) (roundInt s.cfg.roundTie length)) = tap) {next : F32 × F32} {d' : Nat}
    (hnext : lineNext pg2 fb damp x L.dampState tap (d + 1) = (next, d')) :
    delayLine pitched pg2 fb damp x out index s = .ok (addAt d out tap) { s with
      lines := s.lines.set s.dl
        { L with dampState := next.1, buffer := Memory.write L.buffer (ringTime s) next.2 }
      dl := s.dl + 1, draws := d' } := by
  subst hL htap
  rw [delayLine_eq pitched pg2 fb damp x out h hentry hlength, roundI_bind, if_pos hfin, num_then,
    num_then]
  simp only [fadd_run, hnext]
  rfl

end

end Sys2Proof.Machine
end

section
/-! The lines of a `delay` command on the state: where the command stands before each of its lines,
and what a whole channel leaves (R540 to R543). -/
namespace Sys2Proof.Machine

/-! ### Delay memory with a run of its lines replaced -/

/-- Delay memory with the `j` lines from `dl` on replaced by `f 0`, `f 1` and so on. -/
def replaceLines (ls : List DelayLine) (dl j : Nat) (f : Nat → DelayLine) : List DelayLine :=
  ls.mapIdx fun q l => if dl ≤ q ∧ q < dl + j then f (q - dl) else l

section
variable {ls : List DelayLine} {dl j : Nat} {f g : Nat → DelayLine}

@[simp] theorem length_replaceLines : (replaceLines ls dl j f).length = ls.length := by
  rw [replaceLines, List.length_mapIdx]

theorem getElem?_replaceLines (q : Nat) : (replaceLines ls dl j f)[q]? =
    (ls[q]?).map fun l => if dl ≤ q ∧ q < dl + j then f (q - dl) else l := by
  rw [replaceLines, List.getElem?_mapIdx]

theorem getElem?_replaceLines_outside {q : Nat} (h : q < dl ∨ dl + j ≤ q) :
    (replaceLines ls dl j f)[q]? = ls[q]? := by
  have hout : ¬ (dl ≤ q ∧ q < dl + j) := by omega
  simp [getElem?_replaceLines, hout]

theorem getElem?_replaceLines_inside {p : Nat} (hp : p < j) (h : dl + p < ls.length) :
    (replaceLines ls dl j f)[dl + p]? = some (f p) := by
  have hin : dl ≤ dl + p ∧ dl + p < dl + j := by omega
  rw [getElem?_replaceLines, List.getElem?_eq_getElem h, Option.map_some, if_pos hin,
    Nat.add_sub_cancel_left]

theorem replaceLines_zero : replaceLines ls dl 0 f = ls :=
  List.ext_getElem? fun _ => getElem?_replaceLines_outside (by omega)

theorem replaceLines_congr (h : ∀ p < j, f p = g p) :
    replaceLines ls dl j f = replaceLines ls dl j g := by
  refine List.ext_getElem? fun q => ?_
  rw [getElem?_replaceLines, getElem?_replaceLines]
  by_cases hin : dl ≤ q ∧ q < dl + j
  · simp only [if_pos hin, h (q - dl) (by omega)]
  · simp only [if_neg hin]

theorem set_replaceLines {p : Nat} (hp : p ≤ j) (x : DelayLine) :
    (replaceLines ls dl j f).set (dl + p) x =
      replaceLines ls dl (max j (p + 1)) (Function.update f p x) := by
  refine List.ext_getElem? fun q => ?_
  rw [List.getElem?_set, length_replaceLines, getElem?_replaceLines, getElem?_replaceLines]
  by_cases hq : dl + p = q
  · subst hq
    have hin : dl ≤ dl + p ∧ dl + p < dl + max j (p + 1) := by omega
    rcases Nat.lt_or_ge (dl + p) ls.length with hlt | hge
    · simp [hin, hlt]
    · simp [Nat.not_lt.2 hge]
  · have hin : (dl ≤ q ∧ q < dl + max j (p + 1)) ↔ (dl ≤ q ∧ q < dl + j) := by omega
    simp only [if_neg hq, hin]
    by_cases hrun : dl ≤ q ∧ q < dl + j
    · have hne : q - dl ≠ p := by omega
      simp only [if_pos hrun, Function.update_of_ne hne]
    · simp only [if_neg hrun]

/-- One line more is replaced. -/
theorem set_replaceLines_next :
    (replaceLines ls dl j f).set (dl + j) (f j) = replaceLines ls dl (j + 1) f := by
  rw [set_replaceLines le_rfl, Function.update_eq_self, max_eq_right j.le_succ]

/-- One of the replaced lines is replaced again. -/
theorem set_replaceLines_again {p : Nat} (hp : p < j) (x : DelayLine) :
    (replaceLines ls dl j f).set (dl + p) x = replaceLines ls dl j (Function.update f p x) := by
  rw [set_replaceLines hp.le, max_eq_left hp]

end

namespace DelayCall
variable (c : DelayCall) {i k r : Nat}

/-! ### Where the command stands before each of its lines -/

/-- Line `k` of channel `i` with its ring and its damping state written (R542), before any DC
blocker. -/
def unblocked (c : DelayCall) (i k : Nat) : DelayLine :=
  { c.old i k with
    buffer := Memory.write (c.old i k).buffer (c.m.globalTime.toNat % 65536) (c.word i k)
    dampState := c.damped i k }

/-- Line number `p` of the command when its channels before `i` are done and channel `i` has yet to
run its DC blocker. -/
def lineAt (c : DelayCall) (i p : Nat) : DelayLine :=
  if p < i * c.n then c.new (p / c.n) (p % c.n) else c.unblocked i (p - i * c.n)

/-- The state before line `k` of channel `i`; with `k = n`, before the channel's DC blocker. -/
def point (c : DelayCall) (i k : Nat) : State :=
  { c.m with
    lines := replaceLines c.m.lines c.m.dl (i * c.n + k) (c.lineAt i)
    stk := (List.range i).map c.output ++ c.m.stk.drop i
    dl := c.m.dl + (i * c.n + k)
    draws := c.lineOp i k }

theorem new_of_not_last (hk : k + 1 ≠ c.n) : c.new i k = c.unblocked i k := by
  simp [new, unblocked, hk]

theorem new_of_last (hk : k + 1 = c.n) : c.new i k =
    { c.unblocked i k with dcIn := c.sum i c.n, dcFiltState := c.output i } := by
  simp [new, unblocked, hk]

theorem lineOp_succ (i k : Nat) : c.lineOp i (k + 1) = c.lineOp i k + c.lengthOps + 8 := by
  rw [lineOp, lineOp, Nat.succ_mul]
  omega

variable {c}

theorem line_div (hk : k < c.n) : (i * c.n + k) / c.n = i := by
  rw [Nat.mul_comm, Nat.mul_add_div (Nat.zero_lt_of_lt hk), Nat.div_eq_of_lt hk, Nat.add_zero]

theorem line_mod (hk : k < c.n) : (i * c.n + k) % c.n = k := by
  rw [Nat.mul_add_mod', Nat.mod_eq_of_lt hk]

theorem lineAt_eq_new {p : Nat} (hk : k < c.n) (hp : p < i * c.n + k) :
    c.lineAt i p = c.new (p / c.n) (p % c.n) := by
  rcases Nat.lt_or_ge p (i * c.n) with hlt | hge
  · exact if_pos hlt
  · obtain ⟨q, rfl⟩ := Nat.exists_eq_add_of_le hge
    have hq : q < c.n := by omega
    rw [lineAt, if_neg (Nat.not_lt.2 hge), Nat.add_sub_cancel_left, line_div hq, line_mod hq,
      c.new_of_not_last (by omega)]

/-- The DC blocker of channel `i` finishes its last line. -/
theorem update_lineAt (hn : k + 1 = c.n) {p : Nat} (hp : p < (i + 1) * c.n) :
    Function.update (c.lineAt i) (i * c.n + k) (c.new i k) p = c.lineAt (i + 1) p := by
  have hk : k < c.n := by omega
  rw [lineAt, if_pos hp]
  by_cases hlast : p = i * c.n + k
  · rw [hlast, Function.update_self, line_div hk, line_mod hk]
  · rw [Nat.succ_mul] at hp
    rw [Function.update_of_ne hlast, lineAt_eq_new hk (by omega)]

/-- Before a line the command stands where the statements say. -/
theorem point_eq_after (hk : k < c.n) : c.point i k = c.after (i * c.n + k) := by
  rw [point, after, line_div hk, line_mod hk,
    replaceLines_congr (fun p hp => lineAt_eq_new hk hp)]
  rfl

theorem lineAt_next : c.lineAt i (i * c.n + k) = c.unblocked i k := by
  rw [lineAt, if_neg (by omega), Nat.add_sub_cancel_left]

/-- What one line changes. -/
theorem point_succ : c.point i (k + 1) = { c.point i k with
    lines := (c.point i k).lines.set (c.point i k).dl (c.unblocked i k)
    dl := (c.point i k).dl + 1
    draws := c.lineOp i k + c.lengthOps + 8 } := by
  have hset : (c.point i k).lines.set (c.point i k).dl (c.unblocked i k) =
      (c.point i (k + 1)).lines := by
    rw [← lineAt_next]
    exact set_replaceLines_next
  rw [hset, ← lineOp_succ]
  rfl

theorem first_zero : c.first 0 = c.m.draws + 1 := by
  rw [first, Nat.zero_mul]

theorem lineOp_zero : c.lineOp 0 0 = c.m.draws + 2 := by
  rw [lineOp, first_zero, Nat.zero_mul]

/-- Before its first line the command has formed `pregain²` and the first product with `dry`. -/
theorem point_zero : c.point 0 0 = { c.m with draws := c.m.draws + 2 } := by
  simp only [point, lineOp_zero, Nat.zero_mul, Nat.add_zero, replaceLines_zero, List.range_zero,
    List.map_nil, List.nil_append, List.drop_zero]

theorem point_stk_getD : (c.point i k).stk.getD i f0 = c.m.stk.getD i f0 := by
  have hlen : ((List.range i).map c.output).length = i := by simp
  rw [point, List.getD_eq_getElem?_getD, List.getElem?_append_right hlen.le, hlen, Nat.sub_self,
    List.getElem?_drop, Nat.add_zero, List.getD_eq_getElem?_getD]

/-- The first `j` lines of the command and their DelayTimes entries are there. -/
structure Has (c : DelayCall) (j : Nat) : Prop where
  lines : c.m.dl + j ≤ c.m.lines.length
  entries : c.index + j ≤ c.m.patch.delayTimes.length

theorem Has.mono {j j' : Nat} (h : c.Has j) (hle : j' ≤ j) : c.Has j' where
  lines := by have := h.lines; omega
  entries := by have := h.entries; omega

theorem readLine_point {p : Nat} (hp : p < i * c.n + k) (h : c.Has (i * c.n + k)) :
    readLine (c.point i k) (c.m.dl + p) = c.lineAt i p := by
  have := h.lines
  rw [readLine, point, getElem?_replaceLines_inside hp (by omega), Option.getD_some]

/-- A line is found as the command found it. -/
theorem readLine_point_next : readLine (c.point i k) (c.point i k).dl = c.old i k := by
  rw [old, readLine, readLine]
  exact congrArg (·.getD zeroLine) (getElem?_replaceLines_outside (.inr le_rfl))

/-! ### One line -/

/-- Whatever the mode, the delay is finite (R542). -/
theorem isFinite_length (i k : Nat) : isFinite (c.length i k) = true := by
  rw [length]
  split
  · exact isFinite_pitchedDelay _ _ _ _
  · exact (magnitude_ofInt_nat (toNat_lt_two_pow_24 _)).1

theorem delayLength_eq (entry : Half)
    (hentry : c.m.patch.delayTimes[c.index + (i * c.n + k)]? = some entry) :
    delayLength entry f0 c.pitched (c.m.voices.get c.m.vi).note (c.lineOp i k) =
      (c.length i k, c.lineOp i k + c.lengthOps) := by
  rw [delayLength_cleared, length, List.getD, hentry]
  rfl

/-- The lines of channel `i` from line `k` on, `r` of them, from the sum that line `k` finds. -/
def linesFrom (c : DelayCall) (i k r : Nat) : M F32 :=
  delayLines c.pitched c.pg2 (readParam c.m 2) (readParam c.m 4) (c.m.stk.getD i f0) r (c.sum i k)
    (c.index + (i * c.n + k))

theorem linesFrom_succ : c.linesFrom i k (r + 1) =
    delayLine c.pitched c.pg2 (readParam c.m 2) (readParam c.m 4) (c.m.stk.getD i f0) (c.sum i k)
      (c.index + (i * c.n + k)) >>= fun out =>
        delayLines c.pitched c.pg2 (readParam c.m 2) (readParam c.m 4) (c.m.stk.getD i f0) r out
          (c.index + (i * c.n + k) + 1) := (rfl)

theorem linesFrom_exhausted (h : c.m.lines.length ≤ c.m.dl + (i * c.n + k)) :
    c.linesFrom i k (r + 1) (c.point i k) =
      .error (.renderFault .delayLinesExhausted) (c.point i k) := by
  rw [linesFrom_succ]
  exact bind_error (delayLine_exhausted _ _ _ _ _ _ (by rwa [point, length_replaceLines]))

theorem linesFrom_noEntry (h : c.m.dl + (i * c.n + k) < c.m.lines.length)
    (hentry : c.m.patch.delayTimes.length ≤ c.index + (i * c.n + k)) :
    c.linesFrom i k (r + 1) (c.point i k) = .error (.renderFault .delayTimeIndex)
      { c.point i k with dl := c.m.dl + (i * c.n + k) + 1 } := by
  rw [linesFrom_succ]
  exact bind_error (delayLine_noEntry _ _ _ _ _ _ (by rwa [point, length_replaceLines]) hentry)

section
variable (hport : readPort c.m c.m.vi c.m.ui 4 = f0)
include hport

/-- A line that is there takes the command to the next one. -/
theorem delayLine_point (h : c.Has (i * c.n + k + 1)) :
    delayLine c.pitched c.pg2 (readParam c.m 2) (readParam c.m 4) (c.m.stk.getD i f0) (c.sum i k)
      (c.index + (i * c.n + k)) (c.point i k) = .ok (c.sum i (k + 1)) (c.point i (k + 1)) := by
  have hlines := h.lines
  have hentries := h.entries
  obtain ⟨entry, hentry⟩ : ∃ entry, c.m.patch.delayTimes[c.index + (i * c.n + k)]? = some entry :=
    ⟨_, List.getElem?_eq_getElem (by omega)⟩
  have hlength : delayLength entry (readPort (c.point i k) (c.point i k).vi (c.point i k).ui 4)
      c.pitched ((c.point i k).voices.get (c.point i k).vi).note (c.point i k).draws =
        (c.length i k, c.lineOp i k + c.lengthOps) := by
    rw [← delayLength_eq entry hentry, ← hport]
    rfl
  have hroom : (c.point i k).dl < (c.point i k).lines.length := by
    rw [point, length_replaceLines]
    dsimp only
    omega
  refine (delayLine_finite _ _ _ _ _ _ hroom hentry hlength (isFinite_length i k)
    readLine_point_next (tap := c.tap i k) rfl (lineNext_run _ _ _ _ _ _ _)).trans ?_
  rw [point_succ]
  rfl

/-- The first `k` lines of a channel run when they are there. -/
theorem linesFrom_advance (h : c.Has (i * c.n + k)) :
    c.linesFrom i 0 (k + r) (c.point i 0) = c.linesFrom i k r (c.point i k) := by
  induction k generalizing r with
  | zero => rw [Nat.zero_add]
  | succ k ih =>
    rw [Nat.succ_add_eq_add_succ, ih (h.mono (by omega)), linesFrom_succ]
    exact bind_ok (delayLine_point hport h)

theorem linesFrom_complete (h : c.Has (i * c.n + c.n)) :
    c.linesFrom i 0 c.n (c.point i 0) = .ok (c.sum i c.n) (c.point i c.n) :=
  linesFrom_advance hport h (r := 0)

end

/-! ### One channel -/

/-- Channel `i` of the command. -/
def channel (c : DelayCall) (i : Nat) : M Unit :=
  delayChannel c.pitched c.pg2 (readParam c.m 1) (readParam c.m 2) (readParam c.m 4) c.n c.index i

/-- The state before channel `i`. -/
def start (c : DelayCall) (i : Nat) : State := { c.point i 0 with draws := c.first i }

theorem start_zero : c.start 0 = { c.m with draws := c.m.draws + 1 } := by
  rw [start, point_zero, first_zero]

theorem channel_start : c.channel i (c.start i) =
    (c.linesFrom i 0 c.n >>= fun sum => do
      let s ← readAll
      let y ← dcBlock (s.dl - 1) sum
      setTop i y) (c.point i 0) := by
  have hdraws : c.first i + 1 = c.lineOp i 0 := by
    rw [lineOp, Nat.zero_mul]
  have hx : (c.start i).stk.getD i f0 = c.m.stk.getD i f0 := point_stk_getD (k := 0)
  have hpoint : { c.start i with draws := c.first i + 1 } = c.point i 0 := by
    rw [hdraws]
    rfl
  rw [channel, delayChannel, top_bind, hx, num_then, ← hpoint]
  rfl

theorem channel_error {e : RenderError} {t : State}
    (h : c.linesFrom i 0 c.n (c.point i 0) = .error e t) :
    c.channel i (c.start i) = .error e t := by
  rw [channel_start, bind_error h]

end DelayCall

theorem dcBlock_run (line : Nat) (out : F32) (s : State) :
    let y := subAt (s.draws + 2) (addAt (s.draws + 1) out
      (mulAt s.draws dcPole (readLine s line).dcFiltState)) (readLine s line).dcIn
    dcBlock line out s = .ok y { s with
      lines := s.lines.set line { readLine s line with dcFiltState := y, dcIn := out }
      draws := s.draws + 3 } := (rfl)

namespace DelayCall
variable {c : DelayCall} {i k : Nat}

/-- A channel's output replaces its stack element. -/
theorem set_output (hi : i < c.m.stk.length) :
    ((List.range i).map c.output ++ c.m.stk.drop i).set i (c.output i) =
      (List.range (i + 1)).map c.output ++ c.m.stk.drop (i + 1) := by
  rw [List.set_append_right _ _ (by simp), List.length_map, List.length_range, Nat.sub_self,
    List.drop_eq_getElem_cons hi, List.set_cons_zero, List.range_succ, List.map_append,
    List.append_assoc]
  rfl

/-- What the DC blocker of channel `i` and its stack write change. -/
theorem start_succ (hn : k + 1 = c.n) (hi : i < c.m.stk.length) :
    c.start (i + 1) = { c.point i c.n with
      lines := (c.point i c.n).lines.set (c.m.dl + (i * c.n + k)) (c.new i k)
      stk := (c.point i c.n).stk.set i (c.output i)
      draws := c.lineOp i c.n + 3 } := by
  have hsucc : i * c.n + c.n = (i + 1) * c.n := (Nat.succ_mul i c.n).symm
  have hlines : (c.point i c.n).lines.set (c.m.dl + (i * c.n + k)) (c.new i k) =
      (c.start (i + 1)).lines := by
    refine (set_replaceLines_again (by omega) _).trans ?_
    rw [hsucc]
    exact replaceLines_congr fun p hp => update_lineAt hn hp
  have hstk : (c.point i c.n).stk.set i (c.output i) = (c.start (i + 1)).stk :=
    set_output hi
  have hdraws : c.lineOp i c.n + 3 = c.first (i + 1) := by
    rw [lineOp, first, first, Nat.succ_mul]
    omega
  have hdl : c.m.dl + (i * c.n + c.n) = c.m.dl + (i + 1) * c.n := by rw [hsucc]
  rw [hlines, hstk, hdraws, point, hdl]
  rfl

theorem channel_complete (hport : readPort c.m c.m.vi c.m.ui 4 = f0) (hn : c.n ≠ 0)
    (hi : i < c.m.stk.length) (h : c.Has ((i + 1) * c.n)) :
    c.channel i (c.start i) = .ok () (c.start (i + 1)) := by
  obtain ⟨k, hk⟩ := Nat.exists_eq_succ_of_ne_zero hn
  rw [Nat.succ_mul] at h
  have hline : (c.point i c.n).dl - 1 = c.m.dl + (i * c.n + k) := by
    show c.m.dl + (i * c.n + c.n) - 1 = _
    omega
  have hlast : readLine (c.point i c.n) (c.m.dl + (i * c.n + k)) = c.unblocked i k :=
    (readLine_point (by omega) h).trans lineAt_next
  have hpred : c.n - 1 = k := by omega
  rw [channel_start, bind_ok (linesFrom_complete hport h), readAll_bind, hline,
    bind_ok (dcBlock_run _ _ _), setTop_run, hlast, start_succ hk.symm hi, c.new_of_last hk.symm,
    output, hpred]
  rfl

end DelayCall

end Sys2Proof.Machine
end

section
/-! A whole `delay` command: where it completes, where it faults, and its one-line form (R540 to
R543). -/
namespace Sys2Proof.Machine

/-! ### Clearing a port that is clear already -/

theorem Memory.write_read {size a : Nat} {m : Memory} (ha : a < size)
    (h : Memory.wf size m = true) : Memory.write m a (Memory.read m a) = m := by
  refine Memory.ext_of_read (Memory.wf_write _ ha h) h fun b => ?_
  by_cases hb : b = a
  · rw [hb, Memory.read_write_same a _ h]
  · exact Memory.read_write_other _ hb h

theorem writeWord_readWord {m : Vector Voice 32} {v : Fin 32} {key : Nat} (hk : key < unitWords)
    (h : Memory.wf unitWords (m.get v).units = true) :
    writeWord m v key (readWord m v key) = m := by
  rw [writeWord, readWord, Memory.write_read hk h]
  exact Vector.set_getElem_self ..

theorem writePort_readPort {t : State} {v : Fin 32} {u k : Nat} (own : OwnUnit v u t) (hk : k < 8) :
    writePort t v u k (readPort t v u k) = t := by
  have hvoices :
      writeWord t.voices v (portKey u k) (readWord t.voices v (portKey u k)) = t.voices :=
    writeWord_readWord (portKey_lt own.below hk) own.wf
  rw [writePort, writeUnit, readPort, readUnit, hvoices]

/-- Clearing a port that is clear changes nothing. -/
theorem setOwnPort_of_clear {t : State} {v : Fin 32} {u k : Nat} (own : OwnUnit v u t) (hk : k < 8)
    (h : readPort t v u k = f0) : setOwnPort k f0 t = .ok () t := by
  rw [setOwnPort_run, own.vi, own.ui, ← h, writePort_readPort own hk]

/-- The operands of `delay` leave port 4 of its unit clear. -/
theorem readPort_delayOperands {s : State} (hu : s.ui < 63)
    (hwf : Memory.wf unitWords (s.voices.get s.vi).units = true)
    (pg dry fb dp da : Byte) (n : Nat) :
    readPort (operandsRead [pg, dry, fb, dp, da] n s) s.vi s.ui 4 = f0 :=
  ((Proofs.materialiseEffect [pg, dry, fb, dp, da] n s (by simp) hu hwf).1 4 da rfl).2

/-! ### The channels of a command -/

namespace DelayCall
variable {c : DelayCall} {b : Bool} {e : RenderError} {t : State} {i k : Nat}

theorem line_lt (hi : i < ch b) (hk : k < c.n) : i * c.n + k < ch b * c.n := by
  calc i * c.n + k < i * c.n + c.n := Nat.add_lt_add_left hk _
    _ = (i + 1) * c.n := (Nat.succ_mul i c.n).symm
    _ ≤ ch b * c.n := Nat.mul_le_mul_right _ hi

theorem after_lines (c : DelayCall) (j : Nat) : (c.after j).lines =
    replaceLines c.m.lines c.m.dl j fun p => c.new (p / c.n) (p % c.n) := rfl

theorem after_stk (hn : 0 < c.n) :
    (c.after (i * c.n)).stk = (List.range i).map c.output ++ c.m.stk.drop i := by
  rw [after, Nat.mul_div_cancel _ hn]

theorem after_line_other {j q : Nat} (h : q < c.m.dl ∨ c.m.dl + j ≤ q) :
    (c.after j).lines[q]? = c.m.lines[q]? := by
  rw [after_lines]
  exact getElem?_replaceLines_outside h

theorem after_line_new {j : Nat} (hlines : c.m.dl + j ≤ c.m.lines.length)
    (hj : i * c.n + k < j) (hk : k < c.n) :
    (c.after j).lines[c.m.dl + (i * c.n + k)]? = some (c.new i k) := by
  rw [after_lines, getElem?_replaceLines_inside hj (by omega), line_div hk, line_mod hk]

theorem channels_complete (hport : readPort c.m c.m.vi c.m.ui 4 = f0) (hn : c.n ≠ 0)
    (hdepth : ch b ≤ c.m.stk.length) (h : c.Has (ch b * c.n)) :
    forChannels b c.channel (c.start 0) = .ok () (c.start (ch b)) := by
  cases b with
  | false => exact (congrFun (forChannels_false _) _).trans (channel_complete hport hn hdepth h)
  | true =>
    rw [ch_true] at hdepth h
    rw [forChannels_true, bind_ok (channel_complete hport hn (by omega) (h.mono (by omega)))]
    exact channel_complete hport hn hdepth h

theorem linesFrom_zero_exhausted (hn : c.n ≠ 0) (h : c.m.lines.length ≤ c.m.dl) :
    c.linesFrom 0 0 c.n (c.point 0 0) =
      .error (.renderFault .delayLinesExhausted) { c.m with draws := c.m.draws + 2 } := by
  obtain ⟨r, hr⟩ := Nat.exists_eq_succ_of_ne_zero hn
  rw [hr, linesFrom_exhausted (by simpa using h), point_zero]

theorem linesFrom_zero_noEntry (hn : c.n ≠ 0) (h : c.m.dl < c.m.lines.length)
    (hentry : c.m.patch.delayTimes.length ≤ c.index) :
    c.linesFrom 0 0 c.n (c.point 0 0) = .error (.renderFault .delayTimeIndex)
      { c.m with dl := c.m.dl + 1, draws := c.m.draws + 2 } := by
  obtain ⟨r, hr⟩ := Nat.exists_eq_succ_of_ne_zero hn
  rw [hr, linesFrom_noEntry (by simpa using h) (by simpa using hentry), point_zero, Nat.zero_mul,
    Nat.add_zero]

/-- A fault in the lines of the first channel ends the command. -/
theorem channels_error_first (h : c.linesFrom 0 0 c.n (c.point 0 0) = .error e t) :
    forChannels b c.channel (c.start 0) = .error e t := by
  cases b with
  | false => exact (congrFun (forChannels_false _) _).trans (channel_error h)
  | true => rw [forChannels_true, bind_error (channel_error h)]

/-- A fault in the lines of channel `i` ends the command when the channels before it are there. -/
theorem channels_error (hport : readPort c.m c.m.vi c.m.ui 4 = f0) (hn : c.n ≠ 0)
    (hdepth : ch b ≤ c.m.stk.length) (hi : i < ch b) (hhas : c.Has (i * c.n))
    (h : c.linesFrom i 0 c.n (c.point i 0) = .error e t) :
    forChannels b c.channel (c.start 0) = .error e t := by
  cases i with
  | zero => exact channels_error_first h
  | succ i =>
    obtain ⟨rfl, rfl⟩ : b = true ∧ i = 0 := by
      cases b
      · simp at hi
      · rw [ch_true] at hi
        exact ⟨rfl, by omega⟩
    rw [ch_true] at hdepth
    rw [forChannels_true, bind_ok (channel_complete hport hn (by omega) hhas)]
    exact channel_error h

/-- The lines of a channel from its line `k` on meet what its first `k` lines leave. -/
theorem channels_error_at (hport : readPort c.m c.m.vi c.m.ui 4 = f0)
    (hdepth : ch b ≤ c.m.stk.length) {j : Nat} (hj : j < ch b * c.n) (hhas : c.Has j)
    (h : ∀ i k r, i * c.n + k = j → k < c.n → c.linesFrom i k (r + 1) (c.point i k) = .error e t) :
    forChannels b c.channel (c.start 0) = .error e t := by
  have hn : 0 < c.n := Nat.pos_of_lt_mul_left hj
  have hk : j % c.n < c.n := Nat.mod_lt j hn
  have hj' : j / c.n * c.n + j % c.n = j := Nat.div_add_mod' j c.n
  obtain ⟨r, hr⟩ := Nat.exists_eq_add_of_lt hk
  refine channels_error hport hn.ne' hdepth ((Nat.div_lt_iff_lt_mul hn).2 hj)
    (hhas.mono (by omega)) ?_
  have hadvance := linesFrom_advance (r := r + 1) hport (i := j / c.n) (k := j % c.n) (by rwa [hj'])
  rw [Nat.add_assoc] at hr
  rw [← hr] at hadvance
  rw [hadvance]
  exact h _ _ r hj' hk

end DelayCall

/-! ### The command -/

/-- The lines of a `delay` command whose operands left the state `m` (R308, R540). -/
def delayCall (m : State) (index count : Byte) : DelayCall :=
  { m := m, n := delayLineCount count, index := index.toNat, pitched := delayPitched count }

section
variable {s m t : State} {b : Bool} {pg dry fb dp da index count : Byte} {e : RenderError}
variable (hu : s.ui < 63) (hm : operandsRead [pg, dry, fb, dp, da] 2 s = m)
variable (hdepth : ch b ≤ s.stk.length)
include hu hm hdepth

/-- A count of no lines faults before anything is computed. -/
theorem execDelay_noLines (hn : delayLineCount count = 0) :
    exec (.delay b pg dry fb dp da index count) s =
      .next (faultEntry (.renderFault .delayLinesExhausted) (commandSite s) m) := by
  subst hm
  refine (runUnit_below hu [pg, dry, fb, dp, da] 2 _).trans ?_
  rw [need_bind, operandsRead_stk, if_pos hdepth, raiseIf_bind, hn, if_pos (by decide),
    finishUnit_error]

/-- With a line count the handler runs the channels. -/
theorem execDelay_eq (hn : delayLineCount count ≠ 0) :
    exec (.delay b pg dry fb dp da index count) s = .next (finishUnit (commandSite s)
      ((forChannels b (delayCall m index count).channel >>= fun _ => setOwnPort 4 f0)
        ((delayCall m index count).start 0))) := by
  subst hm
  refine (runUnit_below hu [pg, dry, fb, dp, da] 2 _).trans ?_
  rw [need_bind, operandsRead_stk, if_pos hdepth, raiseIf_bind, if_neg (by simpa using hn),
    param_bind, num_then, param_bind, param_bind, param_bind, DelayCall.start_zero]
  rfl

theorem execDelay_error (hn : delayLineCount count ≠ 0)
    (h : forChannels b (delayCall m index count).channel ((delayCall m index count).start 0) =
      .error e t) :
    exec (.delay b pg dry fb dp da index count) s = .next (faultEntry e (commandSite s) t) := by
  rw [execDelay_eq hu hm hdepth hn, bind_error h, finishUnit_error]

theorem execDelay_complete (hwf : Memory.wf unitWords (s.voices.get s.vi).units = true)
    (hn : delayLineCount count ≠ 0)
    (h : (delayCall m index count).Has (ch b * delayLineCount count)) :
    exec (.delay b pg dry fb dp da index count) s = .next
      { (delayCall m index count).start (ch b) with ui := s.ui + 1 } := by
  have hport := readPort_delayOperands hu hwf pg dry fb dp da 2
  have own := OwnUnit.operandsRead hu hwf (ts := [pg, dry, fb, dp, da]) 2 (by simp)
  rw [hm] at hport own
  have hstk : m.stk = s.stk := hm ▸ operandsRead_stk s _ 2
  have hrun : forChannels b (delayCall m index count).channel ((delayCall m index count).start 0) =
      .ok () ((delayCall m index count).start (ch b)) :=
    DelayCall.channels_complete (by rwa [delayCall, own.vi, own.ui]) hn (by rwa [delayCall, hstk]) h
  have own' : OwnUnit s.vi s.ui ((delayCall m index count).start (ch b)) :=
    { vi := own.vi, ui := own.ui, below := own.below, wf := own.wf }
  rw [execDelay_eq hu hm hdepth hn, bind_ok hrun, setOwnPort_of_clear own' (by decide) hport,
    finishUnit_ok, own'.ui]

end

/-! ### One unpitched line -/

namespace DelayCall
variable {c : DelayCall} {i k : Nat}

/-- The state after a channel of one line. -/
theorem start_one (hn : c.n = 1) (hstk : 0 < c.m.stk.length) : c.start 1 = { c.m with
    lines := c.m.lines.set c.m.dl (c.new 0 0)
    stk := c.m.stk.set 0 (c.output 0)
    dl := c.m.dl + 1
    draws := c.lineOp 0 1 + 3 } := by
  have htwice : (c.m.lines.set c.m.dl (c.unblocked 0 0)).set c.m.dl (c.new 0 0) =
      c.m.lines.set c.m.dl (c.new 0 0) := List.set_set _
  rw [start_succ (k := 0) hn.symm hstk, hn, point_succ, point_zero, Nat.zero_mul, ← htwice]
  rfl

/-- The tap of an unpitched line is its table entry back from the ring position. -/
theorem tap_unpitched (hp : c.pitched = false) {entry : Half}
    (hentry : c.m.patch.delayTimes[c.index + (i * c.n + k)]? = some entry) :
    c.tap i k = Memory.read (c.old i k).buffer
      ((c.m.globalTime.toNat % 65536 + 65536 - entry.toNat) % 65536) := by
  have hlength : c.length i k = ofInt entry.toNat := by
    rw [length, hp, List.getD_eq_getElem?_getD, hentry, Option.getD_some]
    rfl
  have hpos : (((c.m.globalTime.toNat % 65536 : Nat) - (entry.toNat : Int)) % 65536).toNat =
      (c.m.globalTime.toNat % 65536 + 65536 - entry.toNat) % 65536 := by
    have := entry.isLt
    omega
  rw [tap, hlength, roundInt_ofInt _ (toNat_lt_two_pow_24 entry), hpos]

theorem old_zero {L : DelayLine} (h : c.m.lines[c.m.dl]? = some L) : c.old 0 0 = L := by
  rw [old, readLine, Nat.zero_mul]
  exact congrArg (·.getD zeroLine) h

theorem new_one (hn : c.n = 1) : c.new 0 0 =
    { buffer := Memory.write (c.old 0 0).buffer (c.m.globalTime.toNat % 65536) (c.word 0 0)
      dampState := c.damped 0 0, dcIn := c.sum 0 1, dcFiltState := c.output 0 } := by
  rw [c.new_of_last hn.symm, hn, unblocked]

section
variable (hp : c.pitched = false)
include hp

theorem lengthOps_unpitched : c.lengthOps = 2 := by
  rw [lengthOps, hp]
  rfl

theorem sum_one : c.sum 0 1 = addAt (c.m.draws + 4)
    (mulAt (c.m.draws + 1) (readParam c.m 1) (c.m.stk.getD 0 f0)) (c.tap 0 0) := by
  rw [sum_succ, sum_zero, lineOp_zero, first_zero, lengthOps_unpitched hp]

theorem damped_one : c.damped 0 0 = addAt (c.m.draws + 8)
    (mulAt (c.m.draws + 5) (readParam c.m 4) (c.old 0 0).dampState)
    (mulAt (c.m.draws + 7) (subAt (c.m.draws + 6) f1 (readParam c.m 4)) (c.tap 0 0)) := by
  rw [damped, lineOp_zero, lengthOps_unpitched hp]

theorem word_one : c.word 0 0 = addAt (c.m.draws + 11)
    (mulAt (c.m.draws + 9) (readParam c.m 2) (c.damped 0 0))
    (mulAt (c.m.draws + 10) (mulAt c.m.draws (readParam c.m 0) (readParam c.m 0))
      (c.m.stk.getD 0 f0)) := by
  rw [word, lineOp_zero, lengthOps_unpitched hp, pg2]

theorem lineOp_one : c.lineOp 0 1 = c.m.draws + 12 := by
  rw [lineOp_succ, lineOp_zero, lengthOps_unpitched hp]

theorem output_one (hn : c.n = 1) : c.output 0 = subAt (c.m.draws + 14)
    (addAt (c.m.draws + 13) (c.sum 0 1)
      (mulAt (c.m.draws + 12) dcPole (c.old 0 0).dcFiltState)) (c.old 0 0).dcIn := by
  rw [output, hn, lineOp_one hp, Nat.sub_self]

end

end DelayCall

end Sys2Proof.Machine

namespace Sys2Proof.Proofs
open Sys2Proof.Machine

/-- Settles O36: the channel of the one line, whose tap is its table entry back. -/
theorem delayOneLine : Obligations.DelayOneLine := by
  intro pg dry fb dp da index s x rest L entry hu hwf hstk hline hentry m d time del sum damped w y
  have hm : operandsRead [pg, dry, fb, dp, da] 2 s = m := rfl
  have hlinesM : m.lines = s.lines := operandsRead_lines s _ 2
  have hdlM : m.dl = s.dl := operandsRead_dl s _ 2
  have hstkM : m.stk = x :: rest := (operandsRead_stk s _ 2).trans hstk
  have htimeM : m.globalTime = s.globalTime := operandsRead_globalTime s _ 2
  have hpatchM : m.patch = s.patch := operandsRead_patch s _ 2
  clear_value m
  rw [← hlinesM, ← hdlM] at hline
  rw [← hpatchM] at hentry
  have hhas : (delayCall m index 1).Has 1 :=
    ⟨(List.getElem?_eq_some_iff.1 hline).1, (List.getElem?_eq_some_iff.1 hentry).1⟩
  rw [execDelay_complete hu hm (by simp [hstk]) hwf (by decide) hhas, ch_false]
  have hc : (delayCall m index 1).m = m ∧ (delayCall m index 1).n = 1 ∧
    (delayCall m index 1).pitched = false ∧ (delayCall m index 1).index = index.toNat :=
    ⟨rfl, rfl, rfl, rfl⟩
  clear hhas
  generalize delayCall m index 1 = c at hc ⊢
  obtain ⟨rfl, hn, hp, hindex⟩ := hc
  have hold : c.old 0 0 = L := DelayCall.old_zero hline
  have htap : c.tap 0 0 = del := by
    have hentry' : c.m.patch.delayTimes[c.index + (0 * c.n + 0)]? = some entry := by
      rwa [hindex, Nat.zero_mul]
    rw [DelayCall.tap_unpitched hp hentry', hold, htimeM]
  have hx : c.m.stk.getD 0 f0 = x := by rw [hstkM, List.getD_cons_zero]
  have hsum : c.sum 0 1 = sum := by rw [DelayCall.sum_one hp, htap, hx]
  have hdamped : c.damped 0 0 = damped := by rw [DelayCall.damped_one hp, htap, hold]
  have hword : c.word 0 0 = w := by rw [DelayCall.word_one hp, hdamped, hx]
  have houtput : c.output 0 = y := by rw [DelayCall.output_one hp hn, hsum, hold]
  have htime : c.m.globalTime.toNat % 65536 = time := by rw [htimeM]
  have hset : c.m.stk.set 0 y = y :: rest := by rw [hstkM, List.set_cons_zero]
  rw [DelayCall.start_one hn (by simp [hstkM]), DelayCall.new_one hn, hold, hword,
    hdamped, hsum, houtput, htime, hset, DelayCall.lineOp_one hp, ← hlinesM, ← hdlM]

/-- Settles O37: the channels run one after the other, each from where the one before it stands. -/
theorem delayCompletes : Obligations.DelayCompletes := by
  intro b pg dry fb dp da index count s hu hwf m n c all hn hdepth hlines hentries t
  have hm : operandsRead [pg, dry, fb, dp, da] 2 s = m := rfl
  have hport : readPort m s.vi s.ui 4 = f0 := readPort_delayOperands hu hwf pg dry fb dp da 2
  have hlinesEq : m.lines = s.lines := operandsRead_lines s _ 2
  have hstkEq : m.stk = s.stk := operandsRead_stk s _ 2
  have hdl : m.dl = s.dl := operandsRead_dl s _ 2
  have hpatch : m.patch = s.patch := operandsRead_patch s _ 2
  clear_value m
  have hhas : c.Has all := ⟨by rwa [hlinesEq, hdl], by rwa [hpatch]⟩
  have hstart : c.start (ch b) = { c.after all with draws := c.first (ch b) } := by
    rw [DelayCall.start, DelayCall.point_eq_after (Nat.pos_of_ne_zero hn)]
    rfl
  have hstk : t.stk = (List.range (ch b)).map c.output ++ s.stk.drop (ch b) := by
    rw [← hstkEq]
    exact DelayCall.after_stk (c := c) (Nat.pos_of_ne_zero hn)
  refine ⟨?_, ?_, fun i k hi hk => ?_, fun j hj => ?_, fun i hi => ?_, ?_, ?_, fun i k _ _ => ?_⟩
  · rw [execDelay_complete hu hm hdepth hwf hn hhas]
    exact congrArg (fun t : State => Host.Outcome.next { t with ui := s.ui + 1 }) hstart
  · exact (c.after_lines_length all).trans (congrArg List.length hlinesEq)
  · rw [← hdl]
    exact DelayCall.after_line_new hhas.lines (DelayCall.line_lt hi hk) hk
  · rw [← hlinesEq]
    exact DelayCall.after_line_other (c := c) (by rwa [← hdl] at hj)
  · rw [hstk, List.getElem?_append_left (by simpa using hi)]
    simp [hi]
  · rw [hstk, List.drop_left' (by simp)]
  · exact hport
  · exact DelayCall.isFinite_length i k

/-- Settles O38: the clauses are the first line that faults, and the line operation by itself. -/
theorem delayFaults : Obligations.DelayFaults := by
  constructor
  · intro b pg dry fb dp da index count s hu hdepth m n i c
    have hm : operandsRead [pg, dry, fb, dp, da] 2 s = m := rfl
    have hlen : c.m.lines.length = s.lines.length := congrArg _ (operandsRead_lines s _ 2)
    have hdl : c.m.dl = s.dl := operandsRead_dl s _ 2
    have htable : c.m.patch.delayTimes.length = s.patch.delayTimes.length :=
      congrArg (·.delayTimes.length) (operandsRead_patch s _ 2)
    have hindex : c.index = index.toNat := rfl
    have hstk : c.m.stk = s.stk := operandsRead_stk s _ 2
    have hport (hwf : Memory.wf unitWords (s.voices.get s.vi).units = true) :
        readPort m m.vi m.ui 4 = f0 := by
      rw [operandsRead_vi, operandsRead_ui, readPort_delayOperands hu hwf]
    clear_value m
    rw [← hlen, ← hdl, ← htable, ← hindex]
    refine ⟨execDelay_noLines hu hm hdepth, fun hn hline => ?_, fun hn hline hentry => ?_,
      fun hwf j hj hlines hentries => ?_⟩
    · exact execDelay_error hu hm hdepth hn
        (DelayCall.channels_error_first (DelayCall.linesFrom_zero_exhausted hn hline))
    · exact execDelay_error hu hm hdepth hn
        (DelayCall.channels_error_first (DelayCall.linesFrom_zero_noEntry hn hline hentry))
    · have hn : n ≠ 0 := (Nat.pos_of_lt_mul_left hj).ne'
      have hat {e : RenderError} {t : State} := DelayCall.channels_error_at (e := e) (t := t)
        (c := c) (hport hwf) (by rwa [hstk]) hj ⟨hlines, hentries⟩
      refine ⟨fun hend => execDelay_error hu hm hdepth hn (hat ?_),
        fun hline hend => execDelay_error hu hm hdepth hn (hat ?_)⟩
      · rintro i k r rfl hk
        rw [DelayCall.linesFrom_exhausted hend.ge, DelayCall.point_eq_after hk]
      · rintro i k r rfl hk
        rw [DelayCall.linesFrom_noEntry hline hend.ge, DelayCall.point_eq_after hk]
  · intro pitched pg2 fb damp x out index s entry hline hentry d plain length hfin
    exact delayLine_notFinite pitched pg2 fb damp x out hline hentry (delayLength_run ..) hfin

end Sys2Proof.Proofs
end

section
/-! The host port: what each host command answers (R600 to R641), and the state at reset (R800). -/
namespace Sys2Proof.Machine

variable {s : State} {p : BytePatch}

/-! ### One host command -/

theorem step_idle (hidle : s.phase = .idle) : step s = .next (idleStep s) := by
  rw [step, hidle]

/-- An idle core takes the oldest host command off the queue and runs it (R640). -/
theorem step_hostCommand {c : HostCommand} {q : List HostCommand} (hidle : s.phase = .idle)
    (hq : s.hostQueue = c :: q) : step s = .next (runHostCommand c { s with hostQueue := q }) := by
  rw [step_idle hidle, idleStep, hq]

theorem hostCreate_valid (s : State) (h : validate p = none) :
    hostCreate p s = { createCore p s with result := some (.loaded none) } := by
  simp only [hostCreate, h]

theorem hostCreate_invalid (s : State) {e : LoadError} (h : validate p = some e) :
    hostCreate p s = { s with result := some (.loaded (some e)) } := by
  simp only [hostCreate, h]

theorem hostUpdate_valid (s : State) (h : validate p = none) :
    hostUpdate p s = { updateCore p s with result := some (.loaded none) } := by
  simp only [hostUpdate, h]

theorem hostUpdate_invalid (s : State) {e : LoadError} (h : validate p = some e) :
    hostUpdate p s = { s with result := some (.loaded (some e)) } := by
  simp only [hostUpdate, h]

/-! ### `Update`: the voices and the delay lines (R620) -/

theorem updateCore_voices_same (h : p.commands = s.patch.commands) :
    (updateCore p s).voices = s.voices := if_pos h

theorem updateCore_voices_cleared (h : p.commands ≠ s.patch.commands) (v : Fin 32) :
    (updateCore p s).voices.get v = { s.voices.get v with units := [] } := by
  have hvoices : (updateCore p s).voices = s.voices.map fun r => { r with units := [] } := if_neg h
  rw [hvoices, Vector.get_eq_getElem, Vector.getElem_map, Vector.get_eq_getElem]

theorem length_growLines (ls : List DelayLine) (n : Nat) :
    (growLines ls n).length = max ls.length n := by
  rw [growLines, List.length_append, List.length_replicate]
  omega

theorem getElem?_growLines_kept {ls : List DelayLine} (n : Nat) {j : Nat} (h : j < ls.length) :
    (growLines ls n)[j]? = ls[j]? :=
  List.getElem?_append_left h

theorem getElem?_growLines_new {ls : List DelayLine} {n j : Nat} {l : DelayLine}
    (hj : ls.length ≤ j) (hl : (growLines ls n)[j]? = some l) : l = zeroLine := by
  rw [growLines, List.getElem?_append_right hj] at hl
  exact List.eq_of_mem_replicate (List.mem_of_getElem? hl)

/-! ### `Trigger` and `Release`: one voice record (R610, R611) -/

theorem setVoice_eq (v : Int) (f : Voice → Voice) (s : State) :
    setVoice v f s = { s with voices := (setVoice v f s).voices } := by
  rw [setVoice]
  split <;> rfl

theorem get_setVoice (v : Int) (f : Voice → Voice) (s : State) (w : Fin 32) :
    (setVoice v f s).voices.get w =
      if (w.val : Int) = v then f (s.voices.get w) else s.voices.get w := by
  rw [setVoice]
  split
  · rename_i hv
    simp only [Vector.get_eq_getElem, Vector.getElem_set]
    by_cases hw : (w.val : Int) = v
    · subst hw
      simp
    · rw [if_neg hw, if_neg (by omega)]
  · rw [if_neg (by omega)]

/-- Setting one record changes the record of that voice, and the host is told nothing. -/
theorem setVoice_silent (v : Int) (f : Voice → Voice) (s : State) (q : List HostCommand) :
    ∃ t : State, { setVoice v f { s with hostQueue := q } with result := some .silent } = t ∧
      t = { s with hostQueue := q, voices := t.voices, result := some .silent } ∧
      ∀ w : Fin 32, t.voices.get w =
        if (w.val : Int) = v then f (s.voices.get w) else s.voices.get w := by
  refine ⟨_, rfl, ?_, get_setVoice v f { s with hostQueue := q }⟩
  conv_lhs => rw [setVoice_eq]

/-! ### Reset -/

/-- Reset is the Create of the empty patch (R801, log entry 7). -/
theorem createCore_emptyPatch_reset : createCore emptyPatch State.reset = State.reset := (rfl)

end Sys2Proof.Machine

namespace Sys2Proof.Proofs
open Sys2Proof.Machine

/-- Settles O42, by whether the patch passes validation. -/
theorem createResult : Obligations.CreateResult := by
  intro p q s hidle hq
  rw [step_hostCommand hidle hq, runHostCommand]
  refine ⟨fun h => ?_, fun e h => ?_⟩
  · rw [hostCreate_valid _ h]
    rfl
  · rw [hostCreate_invalid _ h]

/-- Settles O43, by whether the patch passes validation; the voices and the lines of a valid one
are those of `updateCore`. -/
theorem updateResult : Obligations.UpdateResult := by
  intro p q s hidle hq
  rw [step_hostCommand hidle hq, runHostCommand]
  refine ⟨fun e h => by rw [hostUpdate_invalid _ h], fun h => ⟨_, rfl, ?_⟩⟩
  rw [hostUpdate_valid _ h]
  exact ⟨rfl, length_growLines s.lines _, fun _ => getElem?_growLines_kept _,
    fun _ _ => getElem?_growLines_new, updateCore_voices_same, updateCore_voices_cleared⟩

/-- Settles O44: both set one voice record. -/
theorem triggerReleaseResult : Obligations.TriggerReleaseResult := by
  intro v note q s hidle
  refine ⟨fun hq => ?_, fun hq => ?_⟩
  · obtain ⟨t, ht, hframe, hget⟩ := setVoice_silent v
      (fun _ => { note := note, release := false, units := [] }) s q
    exact ⟨t, (step_hostCommand hidle hq).trans (congrArg _ ht), hframe, hget⟩
  · obtain ⟨t, ht, hframe, hget⟩ := setVoice_silent v (fun r => { r with release := true }) s q
    exact ⟨t, (step_hostCommand hidle hq).trans (congrArg _ ht), hframe, hget⟩

/-- Settles O46: `Render` on the oldest place of the queue, by whether the core is poisoned. -/
theorem renderStart : Obligations.RenderStart := by
  intro s hidle
  refine ⟨fun hq => ?_, fun buffer syncBuffer maxtime q hq => ?_⟩
  · rw [step_idle hidle, idleStep, hq]
  · rw [step_hostCommand hidle hq, runHostCommand, hostRender]
    refine ⟨fun hpoison => ?_, fun hpoison => ?_⟩
    · rw [if_neg (by simp [hpoison])]
      rfl
    · rw [if_pos hpoison]

/-- Settles O50: the memory of the Create of the empty patch, on an idle core. -/
theorem resetWf : Obligations.ResetWf :=
  MemoryWf.wf_of_idle (createCore_emptyPatch_reset ▸ MemoryWf.createCore State.reset rfl) rfl

end Sys2Proof.Proofs
end

section
/-! Install validation (R602): what each check asks, and the order of the checks. -/
namespace Sys2Proof.Machine

/-! ### Stretches without an `advance` -/

/-- Commands with no `advance` among them. -/
def Stretch (cs : List Byte) : Prop := ∀ c ∈ cs, opcodeOf c ≠ 0

theorem stretch_cons {c : Byte} {cs : List Byte} :
    Stretch (c :: cs) ↔ opcodeOf c ≠ 0 ∧ Stretch cs := List.forall_mem_cons

/-- With `k` commands counted already, no stretch at the head of `cs` passes 63, and none inside it
does. -/
def StretchesFit (k : Nat) (cs : List Byte) : Prop :=
  (∀ l, l <+: cs → Stretch l → k + l.length ≤ 63) ∧ ∀ l, l <:+: cs → Stretch l → l.length ≤ 63

theorem stretchesFit_nil {k : Nat} (hk : k ≤ 63) : StretchesFit k [] := by
  simpa [StretchesFit] using fun _ => hk

/-- Counted from 0, the stretches at the head are among those inside. -/
theorem stretchesFit_zero {cs : List Byte} :
    StretchesFit 0 cs ↔ ∀ l, l <:+: cs → Stretch l → l.length ≤ 63 :=
  ⟨And.right, fun h => ⟨fun l hl hs => (Nat.zero_add _).trans_le (h l hl.isInfix hs), h⟩⟩

/-- An `advance` ends the stretch that is counted. -/
theorem stretchesFit_advance {k : Nat} (hk : k ≤ 63) {c : Byte} {cs : List Byte}
    (hop : opcodeOf c = 0) : StretchesFit k (c :: cs) ↔ StretchesFit 0 cs := by
  have hhead (l : List Byte) (hl : l <+: c :: cs) (hs : Stretch l) : l = [] := by
    obtain rfl | ⟨t, rfl, -⟩ := List.prefix_cons_iff.1 hl
    · rfl
    · exact absurd hop (stretch_cons.1 hs).1
  rw [stretchesFit_zero]
  refine ⟨fun h l hl => h.2 l (List.infix_cons hl), fun h => ⟨fun l hl hs => ?_, fun l hl hs => ?_⟩⟩
  · rw [hhead l hl hs]
    exact hk
  · obtain hl | hl := List.infix_cons_iff.1 hl
    · rw [hhead l hl hs]
      exact Nat.zero_le _
    · exact h l hl hs

/-- Any other command is counted. -/
theorem stretchesFit_command {k : Nat} {c : Byte} {cs : List Byte} (hop : opcodeOf c ≠ 0) :
    StretchesFit k (c :: cs) ↔ k < 63 ∧ StretchesFit (k + 1) cs := by
  refine ⟨fun ⟨hhead, hinside⟩ => ?_, fun ⟨hk, hhead, hinside⟩ => ?_⟩
  · have hcons (l : List Byte) (hl : l <+: cs) (hs : Stretch l) : k + (l.length + 1) ≤ 63 :=
      hhead (c :: l) (List.cons_prefix_cons.2 ⟨rfl, hl⟩) (stretch_cons.2 ⟨hop, hs⟩)
    have hone := hcons [] List.nil_prefix (List.forall_mem_nil _)
    exact ⟨hone, fun l hl hs => by have := hcons l hl hs; omega,
      fun l hl => hinside l (List.infix_cons hl)⟩
  · have hhead' (l : List Byte) (hl : l <+: c :: cs) (hs : Stretch l) : k + l.length ≤ 63 := by
      obtain rfl | ⟨t, rfl, ht⟩ := List.prefix_cons_iff.1 hl
      · exact hk.le
      · have := hhead t ht (stretch_cons.1 hs).2
        rw [List.length_cons]
        omega
    refine ⟨hhead', fun l hl hs => ?_⟩
    obtain hl | hl := List.infix_cons_iff.1 hl
    · exact (Nat.le_add_left _ _).trans (hhead' l hl hs)
    · exact hinside l hl hs

theorem segmentsFit_iff (cs : List Byte) : ∀ k ≤ 63, segmentsFit k cs = true ↔ StretchesFit k cs := by
  induction cs with
  | nil => exact fun k hk => iff_of_true rfl (stretchesFit_nil hk)
  | cons c cs ih =>
    intro k hk
    rw [segmentsFit]
    by_cases hop : opcodeOf c = 0
    · rw [if_pos hop, stretchesFit_advance hk hop, ih 0 (Nat.zero_le _)]
    · rw [if_neg hop, stretchesFit_command hop, Bool.and_eq_true, decide_eq_true_iff]
      exact and_congr_right fun hlt => ih (k + 1) hlt

/-- The fifth check fails where some stretch is longer than 63. -/
theorem not_segmentsFit_iff (cs : List Byte) : (!segmentsFit 0 cs) = true ↔
    ∃ before segment after : List Byte, cs = before ++ segment ++ after ∧
      (∀ c ∈ segment, c.toNat / 2 ≠ 0) ∧ 63 < segment.length := by
  rw [Bool.not_eq_true', ← Bool.not_eq_true, segmentsFit_iff cs 0 (Nat.zero_le _),
    stretchesFit_zero]
  constructor
  · intro h
    push Not at h
    obtain ⟨l, ⟨before, after, heq⟩, hs, hlen⟩ := h
    exact ⟨before, l, after, heq.symm, hs, hlen⟩
  · rintro ⟨before, l, after, heq, hs, hlen⟩ h
    exact absurd (h l ⟨before, after, heq.symm⟩ hs) (Nat.not_le.2 hlen)

/-- The fourth check fails where some command byte has an opcode beyond 30. -/
theorem any_unknown_iff (cs : List Byte) : (cs.any fun c => decide (30 < opcodeOf c)) = true ↔
    ∃ c ∈ cs, 30 < c.toNat / 2 := by
  simp only [List.any_eq_true, decide_eq_true_iff]
  rfl

end Sys2Proof.Machine

namespace Sys2Proof.Proofs
open Sys2Proof.Machine

/-- Settles O45: the checks run one after the other, and the fourth and the fifth ask what is said
of them. -/
theorem validationOrder : Obligations.ValidationOrder := by
  intro p long manyValues manyVoices unknown manyUnits
  have hlong : long ↔ Config.maxCommands < p.commands.length := Iff.rfl
  have hvalues : manyValues ↔ Config.maxValues < p.values.length := Iff.rfl
  have hvoices : manyVoices ↔ Config.maxVoices < p.numVoices := Iff.rfl
  have hunknown : unknown ↔ (p.commands.any fun c => decide (30 < opcodeOf c)) = true :=
    (any_unknown_iff p.commands).symm
  have hunits : manyUnits ↔ (!segmentsFit 0 p.commands) = true :=
    (not_segmentsFit_iff p.commands).symm
  clear_value manyUnits unknown manyVoices manyValues long
  rw [validate, hlong, hvalues, hvoices, hunknown, hunits]
  split_ifs <;> simp [*]

end Sys2Proof.Proofs
end

section
/-! Taking a fault (R710): which steps poison the core, with which record, and which commands of the
host clear the flag (FaultEntry). -/
namespace Sys2Proof.Machine

variable {s t : State}

/-! ### Host commands -/

/-- A host command keeps `poisoned`, or clears it as a Create or Update of a valid patch does
(R711). -/
theorem runHostCommand_poisoned (c : HostCommand) (s : State) :
    (runHostCommand c s).poisoned = s.poisoned ∨
      (runHostCommand c s).poisoned = false ∧
        ∃ p, (c = .create p ∨ c = .update p) ∧ validate p = none := by
  cases c with
  | create p =>
    rw [runHostCommand]
    cases h : validate p with
    | none => exact .inr ⟨by rw [hostCreate_valid s h]; rfl, p, .inl rfl, h⟩
    | some e => exact .inl (by rw [hostCreate_invalid s h])
  | trigger v note => exact .inl (by rw [runHostCommand, hostTrigger, setVoice_eq])
  | release v => exact .inl (by rw [runHostCommand, hostRelease, setVoice_eq])
  | update p =>
    rw [runHostCommand]
    cases h : validate p with
    | none => exact .inr ⟨by rw [hostUpdate_valid s h]; rfl, p, .inr rfl, h⟩
    | some e => exact .inl (by rw [hostUpdate_invalid s h])
  | render buffer syncBuffer maxtime =>
    rw [runHostCommand, hostRender]
    split <;> exact .inl rfl

theorem idleStep_poisoned (s : State) :
    (idleStep s).poisoned = s.poisoned ∨
      (idleStep s).poisoned = false ∧
        ∃ p q, (s.hostQueue = .create p :: q ∨ s.hostQueue = .update p :: q) ∧
          validate p = none := by
  rw [idleStep]
  cases hq : s.hostQueue with
  | nil => exact .inl rfl
  | cons c q =>
    obtain h | ⟨h, p, hc, hp⟩ := runHostCommand_poisoned c { s with hostQueue := q }
    · exact .inl h
    · exact .inr ⟨h, p, q, hc.imp (congrArg (· :: q)) (congrArg (· :: q)), hp⟩

/-! ### A step of a running core -/

/-- The command a fault of the next step is recorded with (R710): that at the cursor, or the end of
the command stream, while commands run; none at the loop test and at the end of a sample step. -/
def faultSite (s : State) : Option Nat :=
  if s.phase = .sampleStep ∧ s.vr ≠ 0 then some (min s.cc s.patch.commands.length) else none

theorem faultSite_command (hphase : s.phase = .sampleStep) (hvr : s.vr ≠ 0) :
    faultSite s = some (min s.cc s.patch.commands.length) := if_pos ⟨hphase, hvr⟩

theorem faultSite_outside (h : s.phase = .loopTest ∨ s.vr = 0) : faultSite s = none :=
  if_neg fun ⟨hphase, hvr⟩ => h.elim (fun h => by cases h.symm.trans hphase) hvr

/-- The step from `s` to `t` takes a fault, which leaves the completed samples, the output buffer and
the patch as they were. -/
structure TakesFault (s t : State) : Prop where
  entry : ∃ e u, t = faultEntry e (faultSite s) u
  samples : t.samples = s.samples
  buffer : t.buffer = s.buffer
  patch : t.patch = s.patch

/-- An instruction keeps `poisoned` or takes a fault at its own place. -/
theorem exec_poisoned {i : Instr} (ht : exec i s = .next t) :
    t.poisoned = s.poisoned ∨ ∃ e u, t = faultEntry e (commandSite s) u := by
  by_cases hop : opcodeOf i.command = 0
  · obtain ⟨b, rfl⟩ := eq_advance_of_opcode_zero hop
    cases ht
    split_ifs <;> exact .inl rfl
  · obtain ⟨ts, n, handler, hrun, -, -, htakes⟩ := isUnit_of_ne_advance hop
    rw [hrun] at ht
    obtain ⟨-, hout⟩ | ⟨-, u, hok, hout⟩ | ⟨-, e, u, -, hout⟩ := runUnit_cases ts n handler s
    · cases hout.symm.trans ht
      exact .inr ⟨_, _, rfl⟩
    · cases hout.symm.trans ht
      exact .inl ((htakes.ok hok).poisoned.trans (operandsRead_poisoned s ts n))
    · cases hout.symm.trans ht
      exact .inr ⟨_, _, rfl⟩

theorem runTruncated_fault (op : Nat) (vs : List Byte) (s : State) :
    ∃ e u, runTruncated op vs s = faultEntry e (commandSite s) u := by
  rw [runTruncated]
  split_ifs <;> exact ⟨_, _, rfl⟩

theorem executeOne_poisoned (ht : executeOne s = .next t) :
    t.poisoned = s.poisoned ∨
      ∃ e u, t = faultEntry e (some (min s.cc s.patch.commands.length)) u := by
  rw [executeOne] at ht
  cases hc : s.patch.commands[s.cc]? with
  | none =>
    rw [hc] at ht
    cases ht
    rw [min_eq_right (List.getElem?_eq_none_iff.1 hc)]
    exact .inr ⟨_, _, rfl⟩
  | some c =>
    have hsite : commandSite (fetched s) = some (min s.cc s.patch.commands.length) := by
      rw [min_eq_left (List.getElem?_eq_some_iff.1 hc).1.le]
      rfl
    simp only [hc] at ht
    rw [← hsite]
    cases hdec : decode c (valuesAhead s) with
    | instr i =>
      simp only [hdec] at ht
      exact exec_poisoned ht
    | illegal c' =>
      simp only [hdec] at ht
      cases ht
      exact .inr ⟨_, _, rfl⟩
    | ended op =>
      simp only [hdec] at ht
      cases ht
      exact .inr (runTruncated_fault op _ _)

/-- A step of a running core keeps `poisoned` or takes a fault. -/
theorem runningStep_poisoned (hrun : s.phase ≠ .idle) (ht : step s = .next t) :
    t.poisoned = s.poisoned ∨ TakesFault s t := by
  obtain ⟨hphase, rfl⟩ | ⟨-, hvr, rfl⟩ | ⟨hphase, hvr, hone⟩ := runningStep_cases hrun ht
  · obtain h | h | ⟨v, h⟩ | ⟨e, h⟩ := loopStep_cases s
    · exact .inl (by rw [h]; rfl)
    · exact .inl (by rw [h]; rfl)
    · exact .inl (by rw [h]; rfl)
    · rw [h, ← faultSite_outside (.inl hphase)]
      exact .inr ⟨⟨e, _, rfl⟩, rfl, rfl, rfl⟩
  · obtain ⟨-, e, h⟩ | ⟨-, h⟩ := endOfStep_cases s
    · rw [h, ← faultSite_outside (.inr hvr)]
      exact .inr ⟨⟨e, _, rfl⟩, rfl, rfl, rfl⟩
    · exact .inl (by rw [h]; rfl)
  · have hframe := executeOne_frame hone
    have hentry := executeOne_poisoned hone
    rw [← faultSite_command hphase hvr] at hentry
    exact hentry.imp_right fun hfault =>
      { entry := hfault
        samples := show (commandFrame t).samples = _ from hframe ▸ rfl
        buffer := show (commandFrame t).buffer = _ from hframe ▸ rfl
        patch := show (commandFrame t).patch = _ from hframe ▸ rfl }

end Sys2Proof.Machine

namespace Sys2Proof.Proofs
open Sys2Proof.Machine

/-- Settles O55: a running core keeps `poisoned` or takes a fault at `faultSite`; an idle one keeps
it or clears it with a valid patch. -/
theorem faultEntry : Obligations.FaultEntry := by
  intro s t ht
  by_cases hidle : s.phase = .idle
  · cases (step_idle hidle).symm.trans ht
    refine ⟨fun hs hpoisoned => ?_, fun hrun => absurd hidle hrun, fun _ hs hcleared => ?_⟩
    · obtain h | ⟨h, -⟩ := idleStep_poisoned s <;> simp [h, hs] at hpoisoned
    · obtain h | ⟨-, h⟩ := idleStep_poisoned s
      · simp [h, hs] at hcleared
      · exact h
  · have hstep := runningStep_poisoned hidle ht
    refine ⟨fun hs hpoisoned => ?_, fun _ hs => ?_, fun h => absurd h hidle⟩
    · obtain h | ⟨⟨e, u, rfl⟩, hsamples, hbuffer, hpatch⟩ := hstep
      · simp [h, hs] at hpoisoned
      · have hpatch' : u.patch = s.patch := hpatch
        refine ⟨hidle, rfl, hsamples, hbuffer, e, faultRecord (faultSite s) u, rfl, rfl, rfl, rfl,
          fun hphase hvr hcc => ?_, fun hphase hvr hcc => ?_, fun hout => ?_⟩
        · rw [faultRecord, faultSite_command hphase hvr, min_eq_left hcc.le, ← hpatch']
          exact ⟨rfl, rfl⟩
        · rw [faultRecord, faultSite_command hphase hvr, min_eq_right hcc]
          exact ⟨rfl, by simp [hpatch']⟩
        · rw [faultRecord, faultSite_outside hout]
          exact ⟨rfl, rfl⟩
    · obtain h | ⟨⟨e, u, rfl⟩, -⟩ := hstep
      · exact h.trans hs
      · rfl

end Sys2Proof.Proofs
end

section
/-! What a patch that passed validation cannot do (R602, R603): the errors its handlers raise, and the
delay lines the walk of R603 foresaw (InstalledPatchFaults). -/
namespace Sys2Proof.Machine

/-! ### The errors a call can end with -/

/-- An error a call may end with although the patch passed validation and delay memory has the lines
the walk of R603 counted. -/
structure Admitted (e : RenderError) : Prop where
  unit : e ≠ .renderFault .unitOverflow := by simp
  opcode : ∀ c, e ≠ .invalidOpcode c := by simp
  lines : e ≠ .renderFault .delayLinesExhausted := by simp

/-- If the state holds the result of a call that ended with a fault, the error is in `P`. -/
def FaultsIn (P : RenderError → Prop) (t : State) : Prop :=
  ∀ n y time e r, t.result = some (.rendered n y time (.faulted e r)) → P e

section
variable {P Q : RenderError → Prop} {s t : State} {e : RenderError}

theorem FaultsIn.of_none (h : t.result = none) : FaultsIn P t := fun _ _ _ _ _ ht => by
  cases h.symm.trans ht

theorem FaultsIn.of_faultEntry (h : P e) (site : Option Nat) (s : State) :
    FaultsIn P (faultEntry e site s) := fun _ _ _ _ _ ht => by
  cases ht
  exact h

theorem FaultsIn.mono (h : FaultsIn P t) (hPQ : ∀ e, P e → Q e) : FaultsIn Q t :=
  fun n y time e r ht => hPQ e (h n y time e r ht)

end

/-! ### Handlers -/

/-- A send address is refused with SendTarget or PortRange (R520). -/
theorem resolveSend_admitted {a : Half} {stereo : Bool} {vi : Fin 32} {e : RenderError}
    (h : resolveSend a stereo vi = .error e) : Admitted e := by
  simp only [resolveSend] at h
  split_ifs at h
  all_goals
    cases h
    exact {}

/-- The handler keeps the result of the call, or raises an admitted error. -/
def RaisesAdmitted {α : Type} (m : M α) : Prop :=
  ∀ s, match m s with
    | .ok _ t => t.result = s.result
    | .error e _ => Admitted e

namespace RaisesAdmitted
variable {α β : Type}

theorem bind {m : M α} {f : α → M β} (hm : RaisesAdmitted m) (hf : ∀ a, RaisesAdmitted (f a)) :
    RaisesAdmitted (m >>= f) := by
  intro s
  have h1 := hm s
  cases h : m s with
  | ok a t =>
    rw [h] at h1
    rw [bind_ok h]
    have h2 := hf a t
    cases h' : f a t with
    | ok b u =>
      rw [h'] at h2
      exact h2.trans h1
    | error e u =>
      rw [h'] at h2
      exact h2
  | error e t =>
    rw [h] at h1
    rw [bind_error h]
    exact h1

theorem ite {c : Prop} [Decidable c] {m m' : M α} (h : RaisesAdmitted m) (h' : RaisesAdmitted m') :
    RaisesAdmitted (if c then m else m') := by
  split
  · exact h
  · exact h'

/-- A part that always goes on. -/
theorem goesOn {m : M α} {f : State → α} {g : State → State} (h : ∀ s, m s = .ok (f s) (g s))
    (hg : ∀ s, (g s).result = s.result := by exact fun _ => rfl) : RaisesAdmitted m := fun s => by
  rw [h]
  exact hg s

theorem pure {a : α} : RaisesAdmitted (Pure.pure a : M α) := goesOn fun _ => rfl
theorem readAll : RaisesAdmitted readAll := goesOn fun _ => rfl
theorem top {k : Nat} : RaisesAdmitted (top k) := goesOn fun _ => rfl
theorem param {k : Nat} : RaisesAdmitted (param k) := goesOn fun _ => rfl
theorem ownState {k : Nat} : RaisesAdmitted (ownState k) := goesOn fun _ => rfl
theorem num {m : Num α} : RaisesAdmitted (num m) := goesOn fun _ => rfl
theorem drop {n : Nat} : RaisesAdmitted (drop n) := goesOn fun _ => rfl
theorem setOwnState {k : Nat} {x : F32} : RaisesAdmitted (setOwnState k x) := goesOn fun _ => rfl

/-- A part that checks the state and may change it, or raises an admitted error. -/
theorem check {c : State → Prop} [DecidablePred c] {f : State → α} {g : State → State}
    {e : RenderError} (he : Admitted e := by exact {})
    (hg : ∀ s, (g s).result = s.result := by exact fun _ => rfl) :
    RaisesAdmitted (fun s => if c s then .ok (f s) (g s) else .error e s : M α) := by
  intro s
  by_cases h : c s
  · simpa only [h, if_true] using hg s
  · simpa only [h, if_false] using he

theorem need {n : Nat} : RaisesAdmitted (need n) := check
theorem push {v : F32} : RaisesAdmitted (push v) := check
theorem truncI {x : F32} : RaisesAdmitted (truncI x) := check
theorem syncWrite {v : F32} : RaisesAdmitted (syncWrite v) := check

theorem raiseIf {bad : Bool} {e : RenderError} (he : Admitted e := by exact {}) :
    RaisesAdmitted (raiseIf bad e) := by
  intro s
  cases bad
  · exact rfl
  · exact he

theorem forChannels {stereo : Bool} {body : Nat → M Unit} (h : ∀ i, RaisesAdmitted (body i)) :
    RaisesAdmitted (forChannels stereo body) :=
  bind (h 0) fun _ => ite (h 1) pure

theorem pushTwice {stereo : Bool} {v : F32} : RaisesAdmitted (pushTwice stereo v) :=
  bind push fun _ => ite push pure

theorem mapChannels {stereo : Bool} {f : F32 → Num F32} : RaisesAdmitted (mapChannels stereo f) :=
  bind need fun _ => forChannels fun _ => goesOn fun _ => rfl

theorem combineTop {f : F32 → F32 → Num F32} {stereo : Bool} :
    RaisesAdmitted (combineTop f stereo) :=
  ite (bind need fun _ => goesOn fun _ => rfl) (bind need fun _ => goesOn fun _ => rfl)

theorem combineNext {f : F32 → F32 → Num F32} {stereo : Bool} :
    RaisesAdmitted (combineNext f stereo) :=
  ite (bind need fun _ => goesOn fun _ => rfl) (bind need fun _ => goesOn fun _ => rfl)

theorem panScale {p : F32} : RaisesAdmitted (panScale p) := bind need fun _ => goesOn fun _ => rfl

theorem sendTarget {address : Half} {stereo : Bool} :
    RaisesAdmitted (sendTarget address stereo) := by
  intro s
  rw [Machine.sendTarget]
  cases h : resolveSend address stereo s.vi with
  | ok target => exact rfl
  | error e => exact resolveSend_admitted h

theorem gateAmp {gateBits : Half} {phase : F32} {i : Nat} : RaisesAdmitted (gateAmp gateBits phase i) :=
  bind num fun _ => bind truncI fun _ => goesOn fun _ => rfl

theorem oscPartials {flags : Byte} {gateBits : Half} {i : Nat} (n : Nat) :
    ∀ {j : Nat} {detune phaseParam output : F32},
      RaisesAdmitted (oscPartials flags gateBits i n j detune phaseParam output) := by
  induction n with
  | zero => exact pure
  | succ n ih =>
    exact bind readAll fun _ => bind num fun _ => bind ownState fun _ => bind num fun _ =>
      bind setOwnState fun _ => bind num fun _ => bind (ite gateAmp num) fun _ =>
        bind num fun _ => bind num fun _ => bind num fun _ => ih

theorem oscChannel {flags : Byte} {gateBits : Half} {detune : F32} {i : Nat} :
    RaisesAdmitted (oscChannel flags gateBits detune i) :=
  bind param fun _ => bind (oscPartials _) fun _ => push

end RaisesAdmitted

/-- The instruction runs as a unit whose handler raises only admitted errors. -/
def UnitRaisesAdmitted (i : Instr) : Prop :=
  ∃ (ts : List Byte) (extras : Nat) (handler : M Unit),
    (∀ s, exec i s = runUnit ts extras handler s) ∧ RaisesAdmitted handler

theorem UnitRaisesAdmitted.intro {i : Instr} {handler : M Unit} (ts : List Byte) (extras : Nat)
    (run : ∀ s, exec i s = runUnit ts extras handler s) (raises : RaisesAdmitted handler) :
    UnitRaisesAdmitted i :=
  ⟨ts, extras, handler, run, raises⟩

/-- Every unit but `delay` raises only admitted errors. -/
theorem unitRaisesAdmitted {i : Instr} (hadvance : opcodeOf i.command ≠ 0)
    (hdelay : opcodeOf i.command ≠ 17) : UnitRaisesAdmitted i := by
  cases i with
  | advance b => exact absurd (opcodeOf_commandByte (by decide) b) hadvance
  | delay b => exact absurd (opcodeOf_commandByte (by decide) b) hdelay
  | add b | mul b => exact .intro [] 0 (fun _ => rfl) .combineTop
  | addp b | mulp b => exact .intro [] 0 (fun _ => rfl) .combineNext
  | xch b =>
    exact .intro [] 0 (fun _ => rfl) <| .ite
      (.bind .need fun _ => .goesOn fun _ => rfl) (.bind .need fun _ => .goesOn fun _ => rfl)
  | push b =>
    exact .intro [] 0 (fun _ => rfl) <| .ite
      (.bind .need fun _ => .bind .top fun _ => .bind .top fun _ => .bind .push fun _ => .push)
      (.bind .need fun _ => .bind .top fun _ => .push)
  | pop b => exact .intro [] 0 (fun _ => rfl) <| .bind .need fun _ => .drop
  | loadnote b =>
    exact .intro [] 0 (fun _ => rfl) <| .bind .readAll fun _ => .bind .num fun _ => .pushTwice
  | loadval b t0 =>
    exact .intro [t0] 0 (fun _ => rfl) <| .bind .param fun _ => .bind .num fun _ => .pushTwice
  | noise b t0 t1 =>
    exact .intro [t0, t1] 0 (fun _ => rfl) <| .forChannels fun _ =>
      .bind (.goesOn fun _ => rfl) fun _ => .bind .param fun _ => .bind .param fun _ =>
        .bind .num fun _ => .push
  | receive b =>
    exact .intro [] 0 (fun _ => rfl) <| .ite
      (.bind (.goesOn fun _ => rfl) fun _ => .bind (.goesOn fun _ => rfl) fun _ =>
        .bind (.goesOn fun _ => rfl) fun _ => .bind (.goesOn fun _ => rfl) fun _ =>
          .bind .push fun _ => .push)
      (.bind (.goesOn fun _ => rfl) fun _ => .bind (.goesOn fun _ => rfl) fun _ => .push)
  | input b x0 =>
    exact .intro [] 1 (fun _ => rfl) <| .bind .raiseIf fun _ => .bind .readAll fun _ => .ite
      (.bind (.goesOn fun _ => rfl) fun _ => .bind (.goesOn fun _ => rfl) fun _ =>
        .bind .push fun _ => .push)
      (.bind (.goesOn fun _ => rfl) fun _ => .push)
  | out b t0 =>
    exact .intro [t0] 0 (fun _ => rfl) <| .bind .param fun _ => .bind .need fun _ =>
      .bind (.forChannels fun _ => .goesOn fun _ => rfl) fun _ => .drop
  | outaux b t0 t1 =>
    exact .intro [t0, t1] 0 (fun _ => rfl) <| .bind .param fun _ => .bind .param fun _ =>
      .bind .need fun _ => .bind (.forChannels fun _ => .goesOn fun _ => rfl) fun _ =>
        .bind (.forChannels fun _ => .goesOn fun _ => rfl) fun _ => .drop
  | aux b t0 x0 =>
    exact .intro [t0] 1 (fun _ => rfl) <| .bind .need fun _ => .bind .raiseIf fun _ =>
      .bind .param fun _ => .bind (.forChannels fun _ => .goesOn fun _ => rfl) fun _ => .drop
  | gain b t0 | invgain b t0 | distort b t0 =>
    exact .intro [t0] 0 (fun _ => rfl) <| .bind .param fun _ => .mapChannels
  | crush b t0 =>
    exact .intro [t0] 0 (fun _ => rfl) <| .bind .param fun _ => .bind .readAll fun _ => .mapChannels
  | clip b => exact .intro [] 0 (fun _ => rfl) .mapChannels
  | pan b t0 =>
    exact .intro [t0] 0 (fun _ => rfl) <| .bind .param fun p => .ite (.panScale (p := p))
      (.bind .need fun _ => .bind .top fun _ => .bind .push fun _ => .panScale (p := p))
  | hold b t0 =>
    exact .intro [t0] 0 (fun _ => rfl) <| .bind .need fun _ => .bind .param fun _ =>
      .bind .num fun _ => .forChannels fun _ => .goesOn fun _ => rfl
  | filter b t0 t1 x0 =>
    exact .intro [t0, t1] 1 (fun _ => rfl) <| .bind .need fun _ => .bind .param fun _ =>
      .bind .num fun _ => .bind .param fun _ => .forChannels fun _ => .goesOn fun _ => rfl
  | envelope b t0 t1 t2 t3 t4 =>
    exact .intro [t0, t1, t2, t3, t4] 0 (fun _ => rfl) <| .bind .readAll fun _ =>
      .bind .ownState fun _ => .bind .ownState fun _ => .bind .num fun _ =>
        .bind .setOwnState fun _ => .bind .setOwnState fun _ =>
          .forChannels fun _ => .bind .num fun _ => .push
  | compressor b t0 t1 t2 t3 t4 =>
    exact .intro [t0, t1, t2, t3, t4] 0 (fun _ => rfl) <| .bind .need fun _ =>
      .bind .readAll fun _ => .bind .top fun _ => .bind .top fun _ => .bind .num fun _ =>
        .bind .ownState fun _ => .bind .num fun _ => .bind .setOwnState fun _ =>
          .bind .num fun _ => .pushTwice
  | speed b =>
    exact .intro [] 0 (fun _ => rfl) <| .bind .need fun _ => .bind .top fun _ => .bind .drop fun _ =>
      .bind .ownState fun _ => .bind .num fun _ => .bind .num fun _ => .bind .truncI fun _ =>
        .goesOn fun _ => rfl
  | sync b =>
    exact .intro [] 0 (fun _ => rfl) <| .bind .need fun _ => .bind .readAll fun _ =>
      .bind .top fun _ => .ite .syncWrite .pure
  | send b t0 a =>
    exact .intro [t0] 2 (fun _ => rfl) <| .bind .need fun _ => .bind .sendTarget fun _ =>
      .bind .param fun _ => .bind .num fun _ =>
        .bind (.forChannels fun _ => .goesOn fun _ => rfl) fun _ => .ite .drop .pure
  | oscillator b t0 t1 t2 t3 t4 t5 x0 g =>
    exact .intro [t0, t1, t2, t3, t4, t5] (if g.isSome then 3 else 1) (fun _ => rfl) <|
      .bind .param fun _ => .bind .num fun _ => .forChannels fun _ => .oscChannel

/-! ### `delay` -/

theorem eq_delay_of_opcode {i : Instr} (h : opcodeOf i.command = 17) :
    ∃ b t0 t1 t2 t3 t4 index count, i = .delay b t0 t1 t2 t3 t4 index count := by
  cases i
  case delay b t0 t1 t2 t3 t4 index count => exact ⟨b, t0, t1, t2, t3, t4, index, count, rfl⟩
  all_goals simp [Instr.command] at h

/-- Where delay memory has the lines of the command, `delay` faults with DelayLinesExhausted only for
a count that gives no line. -/
theorem execDelay_faultsIn {s t : State} {b : Bool} {pg dry fb dp da index count : Byte}
    (hu : s.ui < 63) (hwf : Memory.wf unitWords (s.voices.get s.vi).units = true)
    (hnone : s.result = none) (hlines : s.dl + ch b * delayLineCount count ≤ s.lines.length)
    (ht : exec (.delay b pg dry fb dp da index count) s = .next t) :
    FaultsIn (fun e => Admitted e ∨
      e = .renderFault .delayLinesExhausted ∧ delayLineCount count = 0) t := by
  rcases Nat.lt_or_ge s.stk.length (ch b) with hlow | hdepth
  · cases ((Proofs.unitChecks (.delay b pg dry fb dp da index count) s).2 hu hlow).symm.trans ht
    exact .of_faultEntry (.inl {}) _ _
  · obtain ⟨hzero, -, hfirst, hlater⟩ :=
      Proofs.delayFaults.1 b pg dry fb dp da index count s hu hdepth
    by_cases hn : delayLineCount count = 0
    · cases (hzero hn).symm.trans ht
      exact .of_faultEntry (.inr ⟨rfl, hn⟩) _ _
    · have hch : 0 < ch b := by cases b <;> decide
      have hall : 0 < ch b * delayLineCount count := Nat.mul_pos hch (Nat.pos_of_ne_zero hn)
      by_cases hentries : index.toNat + ch b * delayLineCount count ≤ s.patch.delayTimes.length
      · obtain ⟨hrun, -⟩ := Proofs.delayCompletes b pg dry fb dp da index count s hu hwf hn hdepth
          hlines hentries
        cases hrun.symm.trans ht
        exact .of_none ((operandsRead_result s _ 2).trans hnone)
      · rcases Nat.lt_or_ge index.toNat s.patch.delayTimes.length with hin | hbeyond
        · obtain ⟨-, hfault⟩ := hlater hwf (s.patch.delayTimes.length - index.toNat)
            (show _ < ch b * delayLineCount count by omega) (by omega) (by omega)
          cases (hfault (by omega) (by omega)).symm.trans ht
          exact .of_faultEntry (.inl {}) _ _
        · cases (hfirst hn (by omega) hbeyond).symm.trans ht
          exact .of_faultEntry (.inl {}) _ _

/-! ### One step -/

section
variable {s t : State}

theorem exec_faultsIn {i : Instr} (hu : s.ui < 63) (hnone : s.result = none)
    (hadvance : opcodeOf i.command ≠ 0) (hdelay : opcodeOf i.command ≠ 17)
    (ht : exec i s = .next t) : FaultsIn Admitted t := by
  obtain ⟨ts, n, handler, hrun, hraises⟩ := unitRaisesAdmitted hadvance hdelay
  have hend := hraises (operandsRead ts n s)
  rw [hrun, runUnit_below hu] at ht
  cases hm : handler (operandsRead ts n s) with
  | ok a u =>
    rw [hm] at hend ht
    cases ht
    exact .of_none (hend.trans ((operandsRead_result s ts n).trans hnone))
  | error e u =>
    rw [hm] at hend ht
    cases ht
    exact .of_faultEntry hend _ _

/-- Inside a segment of R602 a unit is one of the 63 of its voice. -/
theorem unit_below {c : Byte} (hs : s.InStep) (hvr : s.vr ≠ 0)
    (hc : s.patch.commands[s.cc]? = some c) (hop : opcodeOf c ≠ 0) : s.ui < 63 :=
  (segmentsFit_command hop (drop_commands hc ▸ hs.segment hvr)).1

/-- The lines an instruction takes were counted by the walk of R603, so delay memory has them. -/
theorem linesTaken_le {c : Byte} {i : Instr} (hs : s.InStep) (hvr : s.vr ≠ 0)
    (hc : s.patch.commands[s.cc]? = some c) (hop : opcodeOf c ≠ 0)
    (hdec : decode c (valuesAhead s) = .instr i) : s.dl + linesTaken i ≤ s.lines.length := by
  obtain ⟨rfl, hpre, hwf⟩ := decode_eq_instr hdec
  have hfit : s.vc + i.operands.length ≤ s.patch.values.length := by
    have hle := hpre.length_le
    rw [valuesAhead, List.length_drop] at hle
    have := hs.vc
    omega
  have hahead := hs.lines
  rw [linesAhead, drop_commands hc,
    walkVoices_command _ _ hvr hop (walkCommand_command hpre hwf) hfit] at hahead
  omega

/-- No command of an installed patch has an illegal opcode (R602). -/
theorem opcode_le_of_valid {p : BytePatch} (h : validate p = none) {c : Byte}
    (hc : c ∈ p.commands) : opcodeOf c ≤ 30 := by
  obtain ⟨-, -, -, -, -, hvalid⟩ := Proofs.validationOrder p
  obtain ⟨-, -, -, hknown, -⟩ := hvalid.1 h
  exact Nat.not_lt.1 fun hop => hknown ⟨c, hc, hop⟩

/-- What a step from `s` may end its call with: an admitted error, or DelayLinesExhausted at a `delay`
whose count gives no line. -/
def Foreseen (s : State) (e : RenderError) : Prop :=
  e ≠ .renderFault .unitOverflow ∧ (∀ c, e ≠ .invalidOpcode c) ∧
    (e = .renderFault .delayLinesExhausted →
      ∃ c b t0 t1 t2 t3 t4 index count, s.patch.commands[s.cc]? = some c ∧
        decode c (valuesAhead s) = .instr (.delay b t0 t1 t2 t3 t4 index count) ∧
        delayLineCount count = 0)

theorem Admitted.foreseen {e : RenderError} (h : Admitted e) : Foreseen s e :=
  ⟨h.unit, h.opcode, fun he => absurd he h.lines⟩

theorem runTruncated_faultsIn (hu : s.ui < 63) (op : Nat) (vs : List Byte) :
    FaultsIn Admitted (runTruncated op vs s) := by
  rw [runTruncated, if_neg (Nat.not_le.2 hu)]
  split_ifs <;> exact .of_faultEntry {} _ _

/-- An instruction decoded at the cursors of a well-formed state. -/
theorem decoded_faultsIn {c : Byte} {i : Instr} (h : s.Wf) (hphase : s.phase = .sampleStep)
    (hvr : s.vr ≠ 0) (hc : s.patch.commands[s.cc]? = some c)
    (hdec : decode c (valuesAhead s) = .instr i) (ht : exec i (fetched s) = .next t) :
    FaultsIn (Foreseen s) t := by
  have hs := h.inStep hphase
  obtain ⟨hnone, -⟩ := h.running (by simp [hphase])
  obtain ⟨hcommand, -, -⟩ := decode_eq_instr hdec
  by_cases hop : opcodeOf i.command = 0
  · obtain ⟨b, rfl⟩ := eq_advance_of_opcode_zero hop
    cases ht
    split_ifs <;> exact .of_none hnone
  · have hu := unit_below hs hvr hc (hcommand ▸ hop)
    have hlines := linesTaken_le hs hvr hc (hcommand ▸ hop) hdec
    by_cases hdelay : opcodeOf i.command = 17
    · obtain ⟨b, t0, t1, t2, t3, t4, index, count, rfl⟩ := eq_delay_of_opcode hdelay
      exact (execDelay_faultsIn (s := fetched s) hu (h.voices s.vi) hnone hlines ht).mono
        fun e he => he.elim Admitted.foreseen fun ⟨hexhausted, hn⟩ =>
          hexhausted ▸ ⟨by simp, by simp, fun _ =>
            ⟨c, b, t0, t1, t2, t3, t4, index, count, hc, hdec, hn⟩⟩
    · exact (exec_faultsIn (s := fetched s) hu hnone hop hdelay ht).mono
        fun _ => Admitted.foreseen

theorem executeOne_faultsIn (h : s.Wf) (hphase : s.phase = .sampleStep) (hvr : s.vr ≠ 0)
    (ht : executeOne s = .next t) : FaultsIn (Foreseen s) t := by
  rw [executeOne] at ht
  cases hc : s.patch.commands[s.cc]? with
  | none =>
    rw [hc] at ht
    cases ht
    exact .of_faultEntry (Admitted.foreseen {}) _ _
  | some c =>
    simp only [hc] at ht
    cases hdec : decode c (valuesAhead s) with
    | instr i =>
      simp only [hdec] at ht
      exact decoded_faultsIn h hphase hvr hc hdec ht
    | illegal c' =>
      have hlegal := opcode_le_of_valid h.patch (List.mem_of_getElem? hc)
      obtain ⟨-, hillegal⟩ := decode_eq_illegal hdec
      omega
    | ended op =>
      have hop : opcodeOf c ≠ 0 := fun hop => by simp [decode, hop] at hdec
      have hu := unit_below (h.inStep hphase) hvr hc hop
      simp only [hdec] at ht
      cases ht
      exact (runTruncated_faultsIn (s := fetched s) hu op _).mono fun _ => Admitted.foreseen

/-- The loop test faults only on a sync record without room (R401). -/
theorem loopStep_faultsIn (hnone : s.result = none) (hphase : s.phase = .loopTest)
    (ht : step s = .next t) : FaultsIn Admitted t := by
  obtain ⟨hstop, hplain, hroom, hfull⟩ := Proofs.loopTest s hphase
  by_cases hgo : s.time < s.maxtime ∧ s.bufPos + 2 ≤ s.buffer.length
  · by_cases hdue : s.globalTime.toNat % 256 = 0
    · rcases Nat.lt_or_ge s.syncPos s.syncBuffer.length with hlt | hge
      · cases (hroom hgo hdue hlt).symm.trans ht
        exact .of_none hnone
      · cases (hfull hgo hdue hge).symm.trans ht
        exact .of_faultEntry {} _ _
    · cases (hplain hgo hdue).symm.trans ht
      exact .of_none hnone
  · cases (hstop hgo).symm.trans ht
    intro n y time e r hresult
    cases hresult

/-- The end of a sample step faults only on the depth (R410). -/
theorem endOfStep_faultsIn (hnone : s.result = none) : FaultsIn Admitted (endOfStep s) := by
  rw [endOfStep]
  split_ifs
  · exact .of_faultEntry {} _ _
  · exact .of_faultEntry {} _ _
  · exact .of_none hnone

end

end Sys2Proof.Machine

namespace Sys2Proof.Proofs
open Sys2Proof.Machine

/-- Settles O51: the loop test, the end of a sample step and every command end a call only with
errors that are foreseen. -/
theorem installedPatchFaults : Obligations.InstalledPatchFaults := by
  intro s t h hrun ht
  obtain ⟨hnone, -⟩ := h.running hrun
  have hfaults : FaultsIn (Foreseen s) t := by
    obtain ⟨hphase, -⟩ | ⟨-, -, rfl⟩ | ⟨hphase, hvr, hone⟩ := runningStep_cases hrun ht
    · exact (loopStep_faultsIn hnone hphase ht).mono fun _ => Admitted.foreseen
    · exact (endOfStep_faultsIn hnone).mono fun _ => Admitted.foreseen
    · exact executeOne_faultsIn h hphase hvr hone
  exact hfaults

end Sys2Proof.Proofs
end

section
/-! One partial of the oscillator (R561 to R569): its values, where it stops, and the points between
the partials of a channel. -/
namespace Sys2Proof.Machine

theorem SameStack.trans {s t u : State} (h : SameStack s t) (h' : SameStack t u) : SameStack s u :=
  { cfg := h'.cfg.trans h.cfg, stk := h'.stk.trans h.stk, ui := h'.ui.trans h.ui }

/-! ### The waveforms without state -/

theorem waveAmp_sine (color phase : F32) (d : Nat) : waveAmp .sine color phase d =
    if flt phase color = true then (sinF (divAt (d + 1) (mulAt d twoPi phase) color), d + 2)
    else (f0, d) := by
  simp only [waveAmp]
  split <;> rfl

theorem waveAmp_trisaw (color phase : F32) (d : Nat) : waveAmp .trisaw color phase d =
    if fle color phase = true then
      (subAt (d + 4) (mulAt (d + 3)
        (divAt (d + 2) (subAt d f1 phase) (subAt (d + 1) f1 color)) f2) f1, d + 5)
    else (subAt (d + 2) (mulAt (d + 1) (divAt d phase color) f2) f1, d + 3) := by
  simp only [waveAmp]
  split <;> rfl

theorem waveAmp_pulse (color phase : F32) (d : Nat) :
    waveAmp .pulse color phase d = (if flt phase color then f1 else fNeg1, d) := (rfl)

theorem waveAmp_none (color phase : F32) (d : Nat) : waveAmp .none color phase d = (f0, d) := (rfl)

/-! ### The parts of a partial -/

namespace OscPoint
variable {flags : Byte} {g : Half} {i j n k : Nat} {p : OscPoint}

theorem omega_run : oscOmega (lfoFlag flags) (readParam p.state 0) p.detune
    (currentVoice p.state).note p.state.draws = (p.omega flags, p.op flags) := by
  rw [lfoFlag, omega, op]
  generalize flags.getLsbD 3 = lfo
  cases lfo <;> simp [oscOmega, currentVoice]

/-- The state in which the waveform of a partial is computed. -/
def waved (flags : Byte) (i j : Nat) (p : OscPoint) : State :=
  { p.turned flags i j with draws := p.op flags + 8 }

/-- The partials `j`, `j + 1`, … of channel `i`, `n` of them, from the point `p` on. -/
def run (flags : Byte) (g : Half) (i n j : Nat) (p : OscPoint) :
    EStateM.Result RenderError State F32 :=
  oscPartials flags g i n j p.detune p.phaseParam p.output p.state

/-- A partial turns its accumulator (R562, R563), and then computes its waveform at the working phase
(R564 to R569). -/
theorem run_succ : p.run flags g i (n + 1) j =
    (do
      let amp ← oscWave (selectWave flags) (readParam p.state 3) g (p.phase flags i j) i
      let output ← num (oscMix (selectWave flags) (readParam p.state 4) (readParam p.state 5)
        p.output amp)
      let phaseParam ← num (fadd p.phaseParam twelfth)
      let detune ← num (fdiv (fneg p.detune) f2)
      oscPartials flags g i n (j + 1) detune phaseParam output) (p.waved flags i j) := by
  rw [run, oscPartials, readAll_bind, num_then, omega_run]
  rfl

/-- A partial whose waveform is not the Gate goes on from the next point. -/
theorem run_succ_wave (hwave : selectWave flags ≠ .gate) :
    p.run flags g i (n + 1) j = (p.next flags g i j).run flags g i n (j + 1) := by
  rw [run_succ]
  simp only [oscWave, oscMix, hwave, if_false, next, run]
  rfl

theorem gateAmp_run : gateAmp g (p.phase flags i j) i (p.waved flags i j) =
    if isFinite (p.gateStep flags i j) = true then
      .ok (p.smoothed flags g i j)
        { writeState (p.turned flags i j) p.state.vi p.state.ui (4 + i) (p.smoothed flags g i j) with
          draws := p.op flags + 13 }
    else .error (.renderFault .nonFiniteIndex)
      { p.turned flags i j with draws := p.op flags + 10 } := by
  rw [gateAmp, num_then, truncI_bind]
  rfl

/-- A Gate partial goes on from the next point where its step is finite. -/
theorem run_succ_gate (hwave : selectWave flags = .gate)
    (hfin : isFinite (p.gateStep flags i j) = true) :
    p.run flags g i (n + 1) j = (p.next flags g i j).run flags g i n (j + 1) := by
  rw [run_succ]
  simp only [oscWave, oscMix, hwave, if_true, next, run]
  rw [bind_ok (gateAmp_run.trans (if_pos hfin))]
  rfl

/-- A Gate partial whose step is not finite faults with its accumulator written (R568). -/
theorem run_succ_stop (hwave : selectWave flags = .gate)
    (hfin : isFinite (p.gateStep flags i j) = false) :
    p.run flags g i (n + 1) j = .error (.renderFault .nonFiniteIndex)
      { p.turned flags i j with draws := p.op flags + 10 } := by
  rw [run_succ, oscWave, if_pos hwave, bind_error (gateAmp_run.trans (if_neg (by simp [hfin])))]

/-! ### The partials of a channel -/

/-- No Gate partial among the first `k` of channel `i` stops. -/
def Runs (flags : Byte) (g : Half) (i : Nat) (p : OscPoint) (k : Nat) : Prop :=
  selectWave flags = .gate → ∀ j, j < k →
    isFinite ((p.partials flags g i j).gateStep flags i j) = true

/-- Partial `j` of channel `i` is a Gate partial that stops, the first of its channel. -/
structure Stops (flags : Byte) (g : Half) (i : Nat) (p : OscPoint) (j : Nat) : Prop where
  wave : selectWave flags = .gate
  before : Runs flags g i p j
  step : isFinite ((p.partials flags g i j).gateStep flags i j) = false

/-- A channel's partials run, or one of them is the first to stop. -/
theorem runs_or_stops (flags : Byte) (g : Half) (i : Nat) (p : OscPoint) (n : Nat) :
    Runs flags g i p n ∨ selectWave flags = .gate ∧ ∃ j < n, Stops flags g i p j := by
  by_cases hwave : selectWave flags = .gate
  · induction n with
    | zero => exact .inl fun _ _ hj => absurd hj (Nat.not_lt_zero _)
    | succ n ih =>
      obtain hruns | ⟨-, j, hj, hstops⟩ := ih
      · cases hfin : isFinite ((p.partials flags g i n).gateStep flags i n) with
        | true =>
          refine .inl fun _ j hj => ?_
          obtain hlt | rfl := Nat.lt_succ_iff_lt_or_eq.1 hj
          · exact hruns hwave j hlt
          · exact hfin
        | false => exact .inr ⟨hwave, n, Nat.lt_succ_self n, hwave, hruns, hfin⟩
      · exact .inr ⟨hwave, j, Nat.lt_succ_of_lt hj, hstops⟩
  · exact .inl fun h => absurd h hwave

/-- The first `k` partials lead from point to point. -/
theorem run_partials (n : Nat) (h : Runs flags g i p k) :
    p.run flags g i (k + n) 0 = (p.partials flags g i k).run flags g i n k := by
  induction k generalizing n with
  | zero => rw [Nat.zero_add, partials_zero]
  | succ k ih =>
    rw [Nat.succ_add_eq_add_succ, ih (n + 1) fun hwave j hj => h hwave j (Nat.lt_succ_of_lt hj),
      partials_succ]
    by_cases hwave : selectWave flags = .gate
    · exact run_succ_gate hwave (h hwave k (Nat.lt_succ_self k))
    · exact run_succ_wave hwave

theorem run_complete (h : Runs flags g i p n) : p.run flags g i n 0 =
    .ok (p.partials flags g i n).output (p.partials flags g i n).state :=
  run_partials 0 h

/-- The state in which partial `j` of channel `i` stops: its accumulator is written (R568). -/
def stopped (flags : Byte) (g : Half) (i j : Nat) (p : OscPoint) : State :=
  { (p.partials flags g i j).turned flags i j with
    draws := (p.partials flags g i j).op flags + 10 }

theorem run_stopped (hj : j < n) (h : Stops flags g i p j) :
    p.run flags g i n 0 = .error (.renderFault .nonFiniteIndex) (p.stopped flags g i j) := by
  obtain ⟨r, rfl⟩ := Nat.exists_eq_add_of_lt hj
  rw [Nat.add_assoc, run_partials (r + 1) h.before, run_succ_stop h.wave h.step]
  rfl

/-- The partials leave what a push and the end of the unit look at, and the parameters. -/
theorem partials_same : SameStack p.state (p.partials flags g i n).state := by
  rw [partials_state]
  exact {}

theorem readParam_partials (k : Nat) :
    readParam (p.partials flags g i n).state k = readParam p.state k := by
  rw [partials_state]
  rfl

/-! ### One channel -/

/-- A point at which a channel starts: no output yet, and the phase offset of the parameter (R560). -/
structure Fresh (p : OscPoint) : Prop where
  phase : p.phaseParam = readParam p.state 2 := by rfl
  output : p.output = f0 := by rfl

/-- The point after all partials of channel `i`. -/
def finish (flags : Byte) (g : Half) (i : Nat) (p : OscPoint) : OscPoint :=
  p.partials flags g i (unisonOf flags + 1)

section
variable {s : State} (fresh : p.Fresh)
include fresh

theorem oscChannel_eq : oscChannel flags g p.detune i p.state =
    (oscPartials flags g i (unisonOf flags + 1) 0 p.detune p.phaseParam p.output >>= push)
      p.state := by
  rw [fresh.phase, fresh.output, oscChannel, param_bind]

theorem oscChannel_runs (h : Runs flags g i p (unisonOf flags + 1)) :
    oscChannel flags g p.detune i p.state =
      push (p.finish flags g i).output (p.finish flags g i).state := by
  rw [oscChannel_eq fresh, bind_ok (run_complete h)]
  rfl

theorem oscChannel_stopped (hj : j < unisonOf flags + 1) (h : Stops flags g i p j) :
    oscChannel flags g p.detune i p.state =
      .error (.renderFault .nonFiniteIndex) (p.stopped flags g i j) := by
  rw [oscChannel_eq fresh, bind_error (run_stopped hj h)]

end

/-! ### Both channels -/

/-- The point channel 1 starts from, behind the push of channel 0 (R570). -/
def second (flags : Byte) (g : Half) (stk : List F32) (p : OscPoint) : OscPoint :=
  { state := { (p.finish flags g 0).state with stk := (p.finish flags g 0).output :: stk }
    detune := fneg p.detune
    phaseParam := p.phaseParam
    output := f0 }

/-- The channels of a command, from the point `p` of channel 0 on. -/
def channels (flags : Byte) (g : Half) (b : Bool) (p : OscPoint) :
    EStateM.Result RenderError State Unit :=
  forChannels b
    (fun i => oscChannel flags g (if i = 0 then p.detune else fneg p.detune) i) p.state

section
variable {s : State} {b : Bool} (same : SameStack s p.state)
include same

theorem finish_same : SameStack s (p.finish flags g i).state :=
  same.trans partials_same

theorem second_same (flags : Byte) (g : Half) :
    SameStack { s with stk := (p.finish flags g 0).output :: s.stk }
      (p.second flags g s.stk).state :=
  (finish_same same).pushed _

variable (fresh : p.Fresh)
include fresh

omit same in
theorem second_fresh (stk : List F32) : (p.second flags g stk).Fresh where
  phase := fresh.phase.trans (readParam_partials 2).symm

omit same in
theorem channels_stopped (hj : j < unisonOf flags + 1) (h : Stops flags g 0 p j) :
    p.channels flags g b = .error (.renderFault .nonFiniteIndex) (p.stopped flags g 0 j) :=
  bind_error (oscChannel_stopped fresh hj h)

theorem channels_full (h : Runs flags g 0 p (unisonOf flags + 1))
    (hfull : stackCap s ≤ s.stk.length) : p.channels flags g b =
      .error (.renderFault .stackOverflow) (p.finish flags g 0).state :=
  bind_error ((oscChannel_runs fresh h).trans (push_full_of_same (finish_same same) _ hfull))

omit same in
theorem channels_mono (h : Runs flags g 0 p (unisonOf flags + 1)) :
    p.channels flags g false = push (p.finish flags g 0).output (p.finish flags g 0).state := by
  rw [channels, forChannels_false]
  exact oscChannel_runs fresh h

/-- Once channel 0 is pushed, channel 1 runs from the point behind it. -/
theorem channels_stereo (h : Runs flags g 0 p (unisonOf flags + 1))
    (hroom : s.stk.length < stackCap s) :
    p.channels flags g true = oscChannel flags g (p.second flags g s.stk).detune 1
      (p.second flags g s.stk).state := by
  rw [channels, forChannels_true]
  exact bind_ok ((oscChannel_runs fresh h).trans (push_room_of_same (finish_same same) _ hroom))

end

end OscPoint

/-! ### The command -/

/-- The point channel 0 starts from, `m` being the state after the operands (R560). -/
def oscStart (m : State) : OscPoint :=
  { state := { m with draws := m.draws + 2 }
    detune := subAt (m.draws + 1) (mulAt m.draws (readParam m 1) f2) f1
    phaseParam := readParam m 2
    output := f0 }

theorem oscStart_fresh (m : State) : (oscStart m).Fresh := {}

section
variable {s m : State} {b : Bool} {tr de ph co sh ga flags : Byte} {gate : Option Half} {j : Nat}
variable (hu : s.ui < 63)
  (hm : operandsRead [tr, de, ph, co, sh, ga] (if gate.isSome then 3 else 1) s = m)
include hm

theorem oscStart_same : SameStack s (oscStart m).state :=
  hm ▸ (SameStack.operandsRead s _ _).drawn _

include hu

theorem execOscillator_eq : exec (.oscillator b tr de ph co sh ga flags gate) s =
    .next (finishUnit (commandSite s) ((oscStart m).channels flags (gate.getD 0) b)) :=
  hm ▸ runUnit_below hu [tr, de, ph, co, sh, ga] _ _

/-- A partial of channel 0 stops in either form. -/
theorem execOscillator_stopped (hj : j < unisonOf flags + 1)
    (h : OscPoint.Stops flags (gate.getD 0) 0 (oscStart m) j) :
    exec (.oscillator b tr de ph co sh ga flags gate) s =
      .next (faultEntry (.renderFault .nonFiniteIndex) (commandSite s)
        ((oscStart m).stopped flags (gate.getD 0) 0 j)) := by
  rw [execOscillator_eq hu hm, OscPoint.channels_stopped (oscStart_fresh m) hj h, finishUnit_error]

variable (h : OscPoint.Runs flags (gate.getD 0) 0 (oscStart m) (unisonOf flags + 1))
include h

theorem execOscillator_full (hfull : stackCap s ≤ s.stk.length) :
    exec (.oscillator b tr de ph co sh ga flags gate) s =
      .next (faultEntry (.renderFault .stackOverflow) (commandSite s)
        ((oscStart m).finish flags (gate.getD 0) 0).state) := by
  rw [execOscillator_eq hu hm, OscPoint.channels_full (oscStart_same hm) (oscStart_fresh m) h hfull,
    finishUnit_error]

theorem execOscillator_mono (hroom : s.stk.length < stackCap s) :
    exec (.oscillator false tr de ph co sh ga flags gate) s =
      .next { ((oscStart m).finish flags (gate.getD 0) 0).state with
        stk := ((oscStart m).finish flags (gate.getD 0) 0).output :: s.stk, ui := s.ui + 1 } := by
  rw [execOscillator_eq hu hm, OscPoint.channels_mono (oscStart_fresh m) h,
    finishUnit_push_room (OscPoint.finish_same (oscStart_same hm)) _ hroom]

variable {p : OscPoint} (hp : (oscStart m).second flags (gate.getD 0) s.stk = p)
include hp

/-- With channel 0 pushed, the stereo form runs channel 1 from the point `p`. -/
theorem execOscillator_second (hroom : s.stk.length < stackCap s) : p.Fresh ∧
    SameStack { s with stk := ((oscStart m).finish flags (gate.getD 0) 0).output :: s.stk }
      p.state ∧
    exec (.oscillator true tr de ph co sh ga flags gate) s = .next (finishUnit (commandSite s)
      (oscChannel flags (gate.getD 0) p.detune 1 p.state)) := by
  subst hp
  refine ⟨OscPoint.second_fresh (oscStart_fresh m) _, OscPoint.second_same (oscStart_same hm) _ _, ?_⟩
  rw [execOscillator_eq hu hm, OscPoint.channels_stereo (oscStart_same hm) (oscStart_fresh m) h hroom]

theorem execOscillator_second_stopped (hroom : s.stk.length < stackCap s)
    (hj : j < unisonOf flags + 1) (hstops : OscPoint.Stops flags (gate.getD 0) 1 p j) :
    exec (.oscillator true tr de ph co sh ga flags gate) s =
      .next (faultEntry (.renderFault .nonFiniteIndex) (commandSite s)
        (p.stopped flags (gate.getD 0) 1 j)) := by
  obtain ⟨fresh, -, hrun⟩ := execOscillator_second hu hm h hp hroom
  rw [hrun, OscPoint.oscChannel_stopped fresh hj hstops, finishUnit_error]

variable (h1 : OscPoint.Runs flags (gate.getD 0) 1 p (unisonOf flags + 1))
include h1

theorem execOscillator_second_full (hone : s.stk.length + 1 = stackCap s) :
    exec (.oscillator true tr de ph co sh ga flags gate) s =
      .next (faultEntry (.renderFault .stackOverflow) (commandSite s)
        (p.finish flags (gate.getD 0) 1).state) := by
  obtain ⟨fresh, same, hrun⟩ := execOscillator_second hu hm h hp (Nat.lt_of_succ_le hone.le)
  rw [hrun, OscPoint.oscChannel_runs fresh h1,
    finishUnit_push_full (OscPoint.finish_same same) _ hone.ge]

theorem execOscillator_stereo (hroom : s.stk.length + 1 < stackCap s) :
    exec (.oscillator true tr de ph co sh ga flags gate) s =
      .next { (p.finish flags (gate.getD 0) 1).state with
        stk := (p.finish flags (gate.getD 0) 1).output ::
          ((oscStart m).finish flags (gate.getD 0) 0).output :: s.stk
        ui := s.ui + 1 } := by
  obtain ⟨fresh, same, hrun⟩ := execOscillator_second hu hm h hp (Nat.lt_of_succ_lt hroom)
  rw [hrun, OscPoint.oscChannel_runs fresh h1,
    finishUnit_push_room (OscPoint.finish_same same) _ hroom]

end

end Sys2Proof.Machine

namespace Sys2Proof.Proofs
open Sys2Proof.Machine

/-- Settles O41: the waveforms' values, by their comparison; none holds of a NaN. -/
theorem oscillatorWaves : Obligations.OscillatorWaves := by
  refine ⟨fun _ => rfl, fun color phase d => ?_⟩
  rw [waveAmp_sine, waveAmp_trisaw, waveAmp_pulse, waveAmp_none]
  refine ⟨fun h => by rw [if_pos h], fun h => by rw [if_neg (by simp [h])],
    fun h => by rw [if_pos h], fun h => by rw [if_neg (by simp [h])], rfl, rfl, fun h => ?_⟩
  have hnan : flt phase color = false := flt_of_isNaN_left color h
  rw [if_neg (by simp [hnan]), hnan]
  exact ⟨rfl, rfl⟩

/-- Settles O60: each channel runs from point to point until a partial stops, and then pushes. -/
theorem oscillatorPartials : Obligations.OscillatorPartials := by
  intro b tr de ph co sh ga flags gate s hu m d n g detune start0 end0 start1 end1 runs stops stopped i
  have hm : operandsRead [tr, de, ph, co, sh, ga] (if gate.isSome then 3 else 1) s = m := rfl
  have hp : (oscStart m).second flags g s.stk = start1 := rfl
  exact ⟨execOscillator_mono hu hm, execOscillator_full hu hm,
    fun j ⟨hwave, hj, hbefore, hstop⟩ => execOscillator_stopped hu hm hj ⟨hwave, hbefore, hstop⟩,
    fun h h1 hroom => execOscillator_stereo hu hm h hp h1 hroom,
    fun h h1 hone => execOscillator_second_full hu hm h hp h1 hone,
    fun h hroom j ⟨hwave, hj, hbefore, hstop⟩ =>
      execOscillator_second_stopped hu hm h hp hroom hj ⟨hwave, hbefore, hstop⟩⟩

end Sys2Proof.Proofs
end

section
/-! One mono partial (OscillatorResult), and what the oscillator leaves of voice memory: the slots of
its own unit that its partials write (R111, R563, R568). -/
namespace Sys2Proof.Machine

/-! ### The first partial of a command -/

section
variable {s m : State} {flags : Byte} {g : Half}

theorem finish_one (hone : unisonOf flags = 0) (p : OscPoint) :
    p.finish flags g 0 = p.next flags g 0 0 := by
  rw [OscPoint.finish, hone, OscPoint.partials_succ, OscPoint.partials_zero]

theorem oscStart_op : (oscStart m).op flags =
    if flags.getLsbD 3 then m.draws + 8 else m.draws + 10 := by
  rw [OscPoint.op]
  split <;> rfl

end

/-! ### The slots of an oscillator -/

/-- The state slots of its unit an oscillator writes: the accumulators of its partials and, for the
Gate, the smoothers (R111). -/
def OscSlot (flags : Byte) (b : Bool) (k : Nat) : Prop :=
  (∃ i j, i < ch b ∧ j ≤ flags.toNat % 4 ∧ k = i + 2 * j) ∨
    (selectWave flags = .gate ∧ ∃ i, i < ch b ∧ k = 4 + i)

theorem OscSlot.lt {flags : Byte} {b : Bool} {k : Nat} (h : OscSlot flags b k) : k < 8 := by
  have hch : ch b ≤ 2 := by cases b <;> decide
  obtain ⟨i, j, hi, hj, rfl⟩ | ⟨-, i, hi, rfl⟩ := h <;> omega

/-- `t` is `m` but for the stack, the draw counter and slots of an oscillator of `m`'s unit. -/
structure OscReached (flags : Byte) (b : Bool) (m t : State) : Prop where
  frame : t = { m with stk := t.stk, voices := t.voices, draws := t.draws }
  below : m.ui < 63
  wf : VoicesWf t.voices
  word : ∀ v key, (v = m.vi → ∀ k, OscSlot flags b k → key ≠ stateKey m.ui k) →
    readUnit t v key = readUnit m v key

namespace OscReached
variable {flags : Byte} {b : Bool} {g : Half} {i j n k : Nat} {m t : State} {p : OscPoint}

theorem refl (hu : m.ui < 63) (hwf : VoicesWf m.voices) : OscReached flags b m m :=
  ⟨rfl, hu, hwf, fun _ _ _ => rfl⟩

theorem vi (h : OscReached flags b m t) : t.vi = m.vi := by rw [h.frame]
theorem ui (h : OscReached flags b m t) : t.ui = m.ui := by rw [h.frame]

theorem signal (h : OscReached flags b m t) (stk : List F32) (d : Nat) :
    OscReached flags b m { t with stk := stk, draws := d } where
  frame := congrArg (fun t' : State => { t' with stk := stk, draws := d }) h.frame
  below := h.below
  wf := h.wf
  word := h.word

theorem slot (h : OscReached flags b m t) (hk : OscSlot flags b k) (x : F32) :
    OscReached flags b m (writeState t t.vi t.ui k x) where
  frame := congrArg (fun t' : State =>
    { t' with voices := (writeState t t.vi t.ui k x).voices }) h.frame
  below := h.below
  wf := h.wf.write t.vi x (stateKey_lt (h.ui ▸ h.below) (by have := hk.lt; omega))
  word := fun v key hother => by
    refine (readWord_writeWord_other h.wf x ?_).trans (h.word v key hother)
    rw [h.vi, h.ui]
    exact imp_iff_not_or.1 fun hv => hother hv k hk

variable (hi : i < ch b)
include hi

/-- One partial writes its accumulator, and as a Gate the smoother of its channel. -/
theorem next (h : OscReached flags b m p.state) (hj : j ≤ flags.toNat % 4) :
    OscReached flags b m (p.next flags g i j).state := by
  have hturned : OscReached flags b m (p.turned flags i j) :=
    h.slot (.inl ⟨i, j, hi, hj, rfl⟩) _
  rw [OscPoint.next]
  split
  · rename_i hwave
    exact (hturned.slot (.inr ⟨hwave, i, hi, rfl⟩) _).signal _ _
  · exact hturned.signal _ _

theorem partials (h : OscReached flags b m p.state) (hn : n ≤ flags.toNat % 4 + 1) :
    OscReached flags b m (p.partials flags g i n).state := by
  induction n with
  | zero => exact h
  | succ n ih => exact (ih (by omega)).next hi (by omega)

end OscReached

end Sys2Proof.Machine

namespace Sys2Proof.Proofs
open Sys2Proof.Machine

/-- Settles O39: the one partial of the mono form, from the point the command starts at. -/
theorem oscillatorResult : Obligations.OscillatorResult := by
  intro tr de ph co sh ga flags gate s hu hwf hone hroom m
  have hm : operandsRead [tr, de, ph, co, sh, ga] (if gate.isSome then 3 else 1) s = m := rfl
  have own : OwnUnit s.vi s.ui m := OwnUnit.operandsRead hu hwf _ (by simp)
  have hnote : (m.voices.get m.vi).note = (s.voices.get m.vi).note := operandsRead_note ..
  clear_value m
  rw [← own.vi, ← own.ui, ← hnote]
  intro d wave detune pitch omega e sum floor sv offset phase t i
  have hop : (oscStart m).op flags = e := oscStart_op
  have hsv : (oscStart m).accumulator flags 0 0 = sv := by
    rw [OscPoint.accumulator, hop]
    rfl
  have hphase : (oscStart m).phase flags 0 0 = phase := by
    rw [OscPoint.phase, hop, hsv]
    rfl
  have hturned : (oscStart m).turned flags 0 0 = { t with draws := d + 2 } := by
    rw [OscPoint.turned, hsv]
    rfl
  refine ⟨fun hwave => ?_, fun hwave => ?_⟩
  · intro a w
    have hruns : OscPoint.Runs flags (gate.getD 0) 0 (oscStart m) (unisonOf flags + 1) :=
      fun h => absurd h hwave
    refine (execOscillator_mono hu hm hruns hroom).trans ?_
    rw [finish_one hone, OscPoint.next, if_neg hwave, hop, hphase, hturned, ← own.ui]
    rfl
  · intro x a y
    have hstep : (oscStart m).gateStep flags 0 0 = x := by
      rw [OscPoint.gateStep, hop, hphase]
    have hslot : readState { t with draws := d + 2 } (oscStart m).state.vi (oscStart m).state.ui
        (4 + 0) = readState m m.vi m.ui 4 :=
      readState_writeState_other sv (by decide) (own.vi ▸ own.wf)
    have hy : (oscStart m).smoothed flags (gate.getD 0) 0 0 = y := by
      rw [OscPoint.smoothed, hop, hstep, hturned, hslot]
    refine ⟨fun hfin => ?_, fun hfin => ?_⟩
    · have hruns : OscPoint.Runs flags (gate.getD 0) 0 (oscStart m) (unisonOf flags + 1) := by
        intro _ j hj
        obtain rfl : j = 0 := by
          have : unisonOf flags = 0 := hone
          omega
        rwa [OscPoint.partials_zero, hstep]
      refine (execOscillator_mono hu hm hruns hroom).trans ?_
      rw [finish_one hone, OscPoint.next, if_pos hwave, hop, hy, hturned, ← own.ui]
      rfl
    · have hstops : OscPoint.Stops flags (gate.getD 0) 0 (oscStart m) 0 :=
        ⟨hwave, fun _ _ hj => absurd hj (Nat.not_lt_zero _),
          by rwa [OscPoint.partials_zero, hstep]⟩
      refine (execOscillator_stopped hu hm (Nat.succ_pos _) hstops).trans ?_
      rw [OscPoint.stopped, OscPoint.partials_zero, hop, hturned]

/-- Settles O40: the partials of each channel run, or one of them is the first Gate partial to
stop; what they reach of voice memory is their own slots. -/
theorem oscillatorCompletes : Obligations.OscillatorCompletes := by
  intro b tr de ph co sh ga flags gate s hu hwf hroom m done
  have hm : operandsRead [tr, de, ph, co, sh, ga] (if gate.isSome then 3 else 1) s = m := rfl
  have hvi : m.vi = s.vi := operandsRead_vi s _ _
  have hui : m.ui = s.ui := operandsRead_ui s _ _
  have hwfm : VoicesWf m.voices := VoicesWf.operandsRead _ hu (by simp) hwf
  clear_value m
  have hstart : OscReached flags b m (oscStart m).state :=
    (OscReached.refl (hui ▸ hu) hwfm).signal m.stk _
  have hdone {u : State} {l : List F32} (h : OscReached flags b m u)
      (hlen : l.length = s.stk.length + ch b) (hdrop : l.drop (ch b) = s.stk)
      (hexec : exec (.oscillator b tr de ph co sh ga flags gate) s =
        .next { u with stk := l, ui := s.ui + 1 }) : ∃ t, done t :=
    ⟨_, hexec, congrArg (fun t' : State => { t' with stk := l, ui := s.ui + 1 }) h.frame, hlen,
      hdrop, hvi ▸ hui ▸ h.word⟩
  suffices h : (∃ t, done t) ∨ selectWave flags = .gate ∧
      ∃ t, exec (.oscillator b tr de ph co sh ga flags gate) s =
        .next (Machine.faultEntry (.renderFault .nonFiniteIndex) (commandSite s) t) from
    ⟨fun hwave => h.resolve_right fun ⟨hgate, _⟩ => hwave hgate, fun _ => h.imp_right And.right⟩
  have hend0 : OscReached flags b m ((oscStart m).finish flags (gate.getD 0) 0).state :=
    hstart.partials (by cases b <;> decide) le_rfl
  obtain hruns | ⟨hgate, j, hj, hstops⟩ :=
    OscPoint.runs_or_stops flags (gate.getD 0) 0 (oscStart m) (unisonOf flags + 1)
  · cases b with
    | false => exact .inl (hdone hend0 rfl rfl (execOscillator_mono hu hm hruns hroom))
    | true =>
      have hroom' : s.stk.length + 1 < stackCap s := hroom
      generalize hp : (oscStart m).second flags (gate.getD 0) s.stk = p
      have hend1 : OscReached flags true m (p.finish flags (gate.getD 0) 1).state :=
        hp ▸ (hend0.signal _ _).partials (by decide) le_rfl
      obtain hruns1 | ⟨hgate, j, hj, hstops⟩ :=
        OscPoint.runs_or_stops flags (gate.getD 0) 1 p (unisonOf flags + 1)
      · exact .inl (hdone hend1 rfl rfl (execOscillator_stereo hu hm hruns hp hruns1 hroom'))
      · exact .inr ⟨hgate, _, execOscillator_second_stopped hu hm hruns hp
          (Nat.lt_of_succ_lt hroom') hj hstops⟩
  · exact .inr ⟨hgate, _, execOscillator_stopped hu hm hj hstops⟩

end Sys2Proof.Proofs
end
